-- ==== Sys2Proof/Word.lean ====
section
/-! DEFINITION. The words, numbers and fixed tables the MC-4 is made of. -/

namespace Sys2Proof

/-- A byte of the host bus, of a frame, or of a message. -/
abbrev Byte := BitVec 8

/-- A tick counter value. Arithmetic on tick values is modulo 65536 (section 4.2 of the introduction). -/
abbrev Tick := BitVec 16

/-- One of the links 0 to 3. -/
abbrev Link := Fin 4

/-- The number of one of the 96 message descriptors (R47). -/
abbrev DescNo := Fin 96

/-- The number of one of the 512 data blocks (R32). -/
abbrev BlockNo := Fin 512

/-- The number of one of the 32 entries of the context table (R62). -/
abbrev EntryNo := Fin 32

/-- A fragment number, 0 to 15 (R4). -/
abbrev FragNo := Fin 16

/-- A message tag, 0 to 63; the value after 63 is 0 (R4, R149). -/
abbrev Tag := Fin 64

/-- A fixed number of like things: one per link, one per descriptor, one per block. -/
abbrev Table (α : Type) (n : Nat) := Vector α n

namespace Table

variable {α β : Type} {n : Nat}

/-- The entry numbered `i`. -/
def look (t : Table α n) (i : Fin n) : α := Vector.get t i

/-- The table with entry `i` replaced. -/
def put (t : Table α n) (i : Fin n) (a : α) : Table α n := Vector.set t i a i.isLt

/-- The table with every entry changed by `f`. -/
def mapAll (f : α → β) (t : Table α n) : Table β n := Vector.map f t

/-- The table whose entries are all `a`. -/
def fill (n : Nat) (a : α) : Table α n := Vector.replicate n a

end Table

/-- The low eight bits of a number, as the low byte of a two-byte window value. -/
def lowByte (n : Nat) : Byte := BitVec.ofNat 8 n

/-- The bits of a number above the low eight, as the high byte of a two-byte window value. -/
def highByte (n : Nat) : Byte := BitVec.ofNat 8 (n / 256)

/-- The number with the given high and low byte. -/
def ofBytes (hi lo : Byte) : Nat := 256 * hi.toNat + lo.toNat

end Sys2Proof
end

