-- ==== Sys2Proof/Syntax.lean ====
section
/-! DEFINITION. The commands the MC-4 takes: one constructor for each row of spec/opcode_table.json. -/

namespace Sys2Proof

/-- A command to the MC-4: a level of the RESET line, an event of its own timers and of the four links, or an access
of the register window by the host. The table gives its rows no operands; the ones here say which link, context
entry or descriptor an event concerns, and which byte an access carries. The commands of the command register read
their parameters from P0, P1 and P2 (R181; log entry 19). An event whose cause does not hold has no effect (log
entry 3). -/
inductive Instr where
  /-- The RESET line goes low (R188). -/
  | resetLineLow
  /-- The RESET line returns high (R188). -/
  | resetLineHigh
  /-- The pool reports that the free list is rebuilt (R45, R190). -/
  | freeListRebuilt
  /-- The period count reaches the interval length (R23). -/
  | tick
  /-- The message table takes an age pulse (R30). -/
  | agePulse
  /-- The lifetime deadline of a context is reached (R83). -/
  | contextLifetimeExpiry (entry : EntryNo)
  /-- The acknowledgement wait of a message expires (R156). -/
  | acknowledgementWaitExpiry (descriptor : DescNo)
  /-- The refuse backoff of a message expires (R157). -/
  | refuseBackoffExpiry (descriptor : DescNo)
  /-- An idle gap of two character times ends SETTLING (R7). -/
  | settlingGapEnd (link : Link)
  /-- The receiver has received all bytes of a frame (R8). -/
  | rxFrameComplete (link : Link)
  /-- An idle gap of two character times inside a frame (R9). -/
  | truncation (link : Link)
  /-- A character whose stop bit is at space (R2, R9). -/
  | characterError (link : Link)
  /-- A payload length above 64 has been received (R8). -/
  | oversizedPayloadLength (link : Link)
  /-- The reassembly unit takes the link's handed-over DATA fragment (R67). -/
  | fragment (link : Link)
  /-- The outbound scheduler takes the link's handed-over ACK (R153). -/
  | ackReceived (link : Link)
  /-- The outbound scheduler takes the link's handed-over REFUSE (R154). -/
  | refuseReceived (link : Link)
  /-- The transmitter takes a frame start (R14). -/
  | frameStart (link : Link)
  /-- The last check byte has left the line (R16). -/
  | frameEnd (link : Link)
  /-- Two character times of GAP have passed (R14). -/
  | txGapEnd (link : Link)
  /-- Command 01h (R19). -/
  | linkStart
  /-- Command 02h (R20). -/
  | linkStop
  /-- Command 03h (R21). -/
  | linkReset
  /-- Command 10h (R113). -/
  | take
  /-- Command 11h (R116). -/
  | takeAny
  /-- Command 12h (R118, R119). -/
  | release
  /-- Command 13h (R120, R121). -/
  | requeue
  /-- Command 20h (R131, R132). -/
  | composeOpen
  /-- Command 21h (R138). -/
  | composeSubmit
  /-- Command 22h (R140). -/
  | composeCancel
  /-- Command 28h (R161). -/
  | outWithdraw
  /-- Command 30h (R172). -/
  | noticeClearOverflow
  /-- Command 31h (R176). -/
  | countersClear
  /-- Command 32h (R187). -/
  | clearFlags
  /-- Command 3Fh (R189). -/
  | deviceReset
  /-- A write of a code that is not in the command table (R182). -/
  | unknownCommand (code : Byte)
  /-- A read of address 24h (R124, R125). -/
  | readDataPortRead
  /-- A write of address 25h (R126). -/
  | readCursorLowWrite (value : Byte)
  /-- A write of address 26h (R126). -/
  | readCursorHighWrite (value : Byte)
  /-- A read of address 25h (R127). -/
  | readCursorLowRead
  /-- A write of address 27h (R133 to R135). -/
  | composeDataPortWrite (value : Byte)
  /-- A read of address 2Ah (R26). -/
  | tickCounterLowRead
  /-- A read of address 2Eh (R34). -/
  | freeCountLowRead
  /-- A read of address 49h (R36). -/
  | inboundHoldLowRead
  /-- A read of address 28h (R137). -/
  | writeCountLowRead
  /-- A write of address 47h (R185). -/
  | ceilingLowWrite (value : Byte)
  /-- A write of address 48h (R185). -/
  | ceilingHighWrite (value : Byte)
  /-- A write of address 04h (R180). -/
  | linkSelectWrite (value : Byte)
  /-- A write of any other address of the window (R179, R181, R184). -/
  | configurationWrite (address : BitVec 7) (value : Byte)
  /-- A character with its stop bit at mark is received (R7, R8). -/
  | characterReceived (link : Link) (character : Byte)
  deriving DecidableEq, Repr

end Sys2Proof
end

