-- ==== Sys2Proof/WellFormed.lean ====
section
/-! DEFINITION. Which commands the rows of the table cover: UNKNOWN_COMMAND carries a code that is no command, and
CONFIGURATION_WRITE an address whose write has no row of its own. Every other operand is in range by its type. -/

namespace Sys2Proof

/-- The codes of the command table of section 11.2 (R182). -/
def commandCodes : List Byte :=
  [0x01, 0x02, 0x03, 0x10, 0x11, 0x12, 0x13, 0x20, 0x21, 0x22, 0x28, 0x30, 0x31, 0x32, 0x3F]

/-- The addresses whose writes are rows of their own: the command register, link select, the read cursor, the compose
data port and the inbound ceiling. -/
def ownWriteRows : List (BitVec 7) := [0x00, 0x04, 0x25, 0x26, 0x27, 0x47, 0x48]

/-- The command is one that its row of the table describes. -/
def Instr.wellFormed : Instr → Bool
  | .unknownCommand code => !commandCodes.contains code
  | .configurationWrite address _ => !ownWriteRows.contains address
  | .resetLineLow | .resetLineHigh | .freeListRebuilt | .tick | .agePulse | .contextLifetimeExpiry _
  | .acknowledgementWaitExpiry _ | .refuseBackoffExpiry _ | .settlingGapEnd _ | .rxFrameComplete _ | .truncation _
  | .characterError _ | .oversizedPayloadLength _ | .fragment _ | .ackReceived _ | .refuseReceived _ | .frameStart _
  | .frameEnd _ | .txGapEnd _ | .linkStart | .linkStop | .linkReset | .take | .takeAny | .release | .requeue
  | .composeOpen | .composeSubmit | .composeCancel | .outWithdraw | .noticeClearOverflow | .countersClear
  | .clearFlags | .deviceReset | .readDataPortRead | .readCursorLowWrite _ | .readCursorHighWrite _
  | .readCursorLowRead | .composeDataPortWrite _ | .tickCounterLowRead | .freeCountLowRead | .inboundHoldLowRead
  | .writeCountLowRead | .ceilingLowWrite _ | .ceilingHighWrite _ | .linkSelectWrite _ | .characterReceived _ _ => true

end Sys2Proof
end

