-- ==== Sys2Proof/Decode.lean ====
section
/-! DEFINITION. The decoder over the table's words. The MC-4 has no instruction words: no row of
spec/opcode_table.json gives a fixed bit or a field, so no word spells a command. -/

namespace Sys2Proof

/-- The command that a word spells by the table's bits: none, because no row gives bits. -/
def decodeTableWord (_nbits _w : Nat) : Option Instr := none

end Sys2Proof
end

