-- ==== Sys2Proof/Config.lean ====
section
/-! DEFINITION. The fixed numbers of the MC-4. The part has no free value: the spec leaves no result of a command open. -/

namespace Sys2Proof.Config

/-- The notice queue holds at most 32 records (R168). -/
abbrev noticeCapacity : Nat := 32

/-- A control queue holds at most 8 requests (R96). -/
abbrev controlCapacity : Nat := 8

/-- A duplicate history holds at most 16 keys (R89). -/
abbrev historyCapacity : Nat := 16

/-- The largest payload of a frame, and the size of a block (R4, R32). -/
abbrev blockSize : Nat := 64

/-- The largest message (R48). -/
abbrev maxLength : Nat := 1024

/-- Counters and the overflow count stop here (R171, R174). -/
abbrev counterMax : Nat := 255

/-- Ages stop here (R30). -/
abbrev ageMax : Nat := 31

/-- The urgency part of a bid is at most this (R105, R106). -/
abbrev urgencyMax : Nat := 31

/-- What one step of weight is worth in a bid (R105, R106). -/
abbrev weightStep : Nat := 32

/-- The start byte of a frame (R4). -/
abbrev startByte : Byte := 0xA6

/-- The kind bytes of a frame (R4). -/
abbrev kindData : Byte := 0x31
abbrev kindAck : Byte := 0x32
abbrev kindRefuse : Byte := 0x33

/-- The destination that means all stations (R4). -/
abbrev allStations : Byte := 255

/-- Reference periods in a tick interval loaded with the given prescale (R23). -/
def intervalOf (prescale : Nat) : Nat := 4096 * (prescale + 1)

/-- Reference periods in one bit time at a line rate code (R3). -/
def bitPeriods (code : Nat) : Nat := 16 * 2 ^ (7 - code)

/-- Samples that a receiver takes of its line in one bit time (R2). -/
abbrev samplesPerBit : Nat := 16

/-- Reference periods from one sample of a receive line to the next at a line rate code (R2, R3). -/
def samplePeriods (code : Nat) : Nat := 2 ^ (7 - code)

/-- The middle of the start bit, counted in samples from the first sample at space (R2). -/
abbrev middleSample : Nat := 8

/-- The middle of the stop bit, nine bits after the middle of the start bit, counted in the same way (R2). -/
abbrev stopSample : Nat := 152

/-- Samples of mark in an idle gap of two character times, which are twenty bit times (R2). -/
abbrev gapSamples : Nat := 320

/-- Samples of mark after the one in the middle of a stop bit, to the end of an idle gap: the 7 samples of the stop bit
that are still to come, and the 320 of the gap, which begins at the end of that stop bit (R2, R7, R9). -/
abbrev gapSamplesAfterStop : Nat := 327

/-- Bits of a character on a line: a start bit, eight data bits, a stop bit (R2). -/
abbrev characterBits : Nat := 10

/-- Reference periods in a character time, ten bit times, at a line rate code (R2, R3). -/
def characterPeriods (code : Nat) : Nat := characterBits * bitPeriods code

/-- Reference periods in the inter-frame gap of two character times, which are twenty bit times (R2, R14). -/
def gapLength (code : Nat) : Nat := 20 * bitPeriods code

end Sys2Proof.Config
end

