-- ==== Sys2Proof/Machine/State.lean ====
section
/-! DEFINITION. The state of the MC-4 as plain data, block by block as section 2.1 of the introduction lists the
owners, and its value after reset. -/

namespace Sys2Proof.Machine

/-! ### Link ports (chapter 1) -/

/-- The state of a link (R18). -/
inductive LinkState where
  | off | run | stopping
  deriving DecidableEq, Repr

/-- The state of a receiver (R7). -/
inductive ReceiverState where
  | disabled | settling | hunt | frame
  deriving DecidableEq, Repr

/-- The state of a transmitter (R14). -/
inductive TransmitterState where
  | active | gap | idle
  deriving DecidableEq, Repr

/-- The reason a REFUSE carries (R5). -/
inductive RefuseReason where
  | noContext | noBlock
  deriving DecidableEq, Repr

/-- What the receiver hands over with an accepted DATA frame (R13). The link is the port's. -/
structure Fragment where
  origin : Byte
  broadcast : Bool
  tag : Tag
  number : FragNo
  final : Bool
  payload : List Byte
  deriving DecidableEq, Repr

/-- An accepted frame that its receiving block has not yet taken (R13). -/
inductive HandedFrame where
  | data (f : Fragment)
  | ack (origin : Byte) (tag : Tag)
  | refuse (origin : Byte) (tag : Tag) (reason : RefuseReason)
  deriving DecidableEq, Repr

/-- The kind of a request; a reason is present for a REFUSE only (R94). -/
inductive RequestKind where
  | ack
  | refuse (reason : RefuseReason)
  deriving DecidableEq, Repr

/-- A request of a control queue (R94). -/
structure Request where
  kind : RequestKind
  destination : Byte
  tag : Tag
  deriving DecidableEq, Repr

/-- The eight counters of a link (R174). -/
structure Counters where
  checkErrors : Nat
  formatErrors : Nat
  duplicateFragments : Nat
  duplicateMessages : Nat
  noContextDrops : Nat
  noBlockDrops : Nat
  controlLost : Nat
  stray : Nat
  deriving DecidableEq, Repr

/-- All eight counters at 0 (R176, R177). -/
def Counters.zero : Counters := ⟨0, 0, 0, 0, 0, 0, 0, 0⟩

/-- The level of a pin. On a link line mark is high and space is low (section 11.8). -/
inductive Level where
  | low | high
  deriving DecidableEq, Repr

/-- What a receiver makes of the samples of its line (R2): it waits for mark, it waits for a start bit, or it is in a
character, `sample` samples after the first one at space, with the data bits taken so far. -/
inductive Sampler where
  | waitMark
  | waitStart
  | character (sample : Nat) (data : Byte)
  deriving DecidableEq, Repr

/-- One link port. `txPeriods` counts reference periods: of the frame on the line in ACTIVE, and of the gap measured so
far in GAP (R3, R14; log entry 13). `handedPeriods` counts those since the last hand-off (R13; log entry 10).
`sampleCount` counts those since the last sample of the receive line, `sampler` is
what the samples have given, and `idleLeft` is the number of samples of mark that an idle gap still lacks (R2, R7, R9;
log entry 28). -/
structure LinkPort where
  state : LinkState
  stationAddress : Nat
  acceptBroadcast : Bool
  lineRate : Nat
  receiver : ReceiverState
  rxBuffer : List Byte
  handedOver : Option HandedFrame
  handedPeriods : Nat
  transmitter : TransmitterState
  txPeriods : Nat
  txBuffer : List Byte
  controlQueue : List Request
  counters : Counters
  lossIndicator : Bool
  sampleCount : Nat
  sampler : Sampler
  idleLeft : Nat
  deriving DecidableEq, Repr

/-- A link port after device reset (R1, R22, R103, R177; log entries 10, 22 and 28). -/
def LinkPort.reset : LinkPort where
  state := .off
  stationAddress := 0
  acceptBroadcast := true
  lineRate := 5
  receiver := .disabled
  rxBuffer := []
  handedOver := none
  handedPeriods := 0
  transmitter := .gap
  txPeriods := 0
  txBuffer := []
  controlQueue := []
  counters := .zero
  lossIndicator := false
  sampleCount := 0
  sampler := .waitMark
  idleLeft := 0

/-! ### Time base (chapter 2) -/

/-- The time base. `agePulses` counts the age pulses produced (R29) that the message table has not yet taken as
events of its own (R30; DEDUCED, log entry 6). -/
structure TimeBase where
  prescale : Nat
  ageStep : Nat
  periodCount : Nat
  intervalLength : Nat
  tickCounter : Tick
  highLatch : Byte
  divider : Nat
  agePulses : Nat
  deriving DecidableEq, Repr

/-- The time base after device reset (R31). -/
def TimeBase.reset : TimeBase where
  prescale := 3
  ageStep := 10
  periodCount := 0
  intervalLength := 16384
  tickCounter := 0
  highLatch := 0
  divider := 0
  agePulses := 0

/-! ### Block pool (chapter 3) -/

/-- The block pool. `blocks` holds the data bytes of all blocks, byte `o` of block `b` at address `64 * b + o`. -/
structure Pool where
  blocks : List Host.Cell
  usedLength : Table Nat 512
  freeList : List BlockNo
  freeCountLatch : Byte
  reserve : Nat
  ceiling : Table Nat 4
  holdLatch : Table Byte 4
  deriving DecidableEq, Repr

/-- The pool after device reset, with the data bytes given: reset does not clear them (R45). -/
def Pool.reset (blocks : List Host.Cell) : Pool where
  blocks := blocks
  usedLength := .fill 512 0
  freeList := []
  freeCountLatch := 0
  reserve := 16
  ceiling := .fill 4 128
  holdLatch := .fill 4 0

/-! ### Message table (chapter 4) -/

/-- The state of a descriptor (R47). -/
inductive DescState where
  | free | assembling | ready | service | composing | queued | sending | awaitAck | backoff | resend
  deriving DecidableEq, Repr

/-- The direction of a message (R47). -/
inductive Direction where
  | inbound | outbound
  deriving DecidableEq, Repr

/-- A deadline: armed, or suspended while its link is OFF after LINK STOP (R27). A suspended one never expires and is
not resumed. -/
inductive Deadline where
  | armed (at_ : Tick)
  | suspended (at_ : Tick)
  deriving DecidableEq, Repr

/-- A message descriptor (R47). -/
structure Descriptor where
  state : DescState
  direction : Option Direction
  link : Link
  peer : Byte
  broadcast : Bool
  tag : Option Tag
  reference : Byte
  length : Nat
  fragmentCount : Option Nat
  chain : List BlockNo
  stamp : Option Tick
  age : Nat
  attempts : Nat
  deadline : Option Deadline
  position : Nat
  deriving DecidableEq, Repr

/-- The cleared record that a FREE descriptor holds (R47). -/
def Descriptor.cleared : Descriptor where
  state := .free
  direction := none
  link := 0
  peer := 0
  broadcast := false
  tag := none
  reference := 0
  length := 0
  fragmentCount := none
  chain := []
  stamp := none
  age := 0
  attempts := 0
  deadline := none
  position := 0

/-- The message table: the descriptors and the ready queue of each link, head first (R54). -/
structure MessageTable where
  descriptors : Table Descriptor 96
  readyQueue : Table (List DescNo) 4
  deriving DecidableEq, Repr

/-- The message table after device reset (R61). -/
def MessageTable.reset : MessageTable where
  descriptors := .fill 96 .cleared
  readyQueue := .fill 4 []

/-! ### Reassembly unit (chapters 5 and 6) -/

/-- An IN_USE entry of the context table (R62). `received` says for each fragment number whether it is in the
received set. -/
structure Context where
  link : Link
  origin : Byte
  tag : Tag
  descriptor : DescNo
  received : Table Bool 16
  final : Option FragNo
  slots : Table (Option BlockNo) 16
  deadline : Tick
  deriving DecidableEq, Repr

/-- A key of a duplicate history; the link is the history's own (R89). -/
structure Key where
  origin : Byte
  tag : Tag
  deriving DecidableEq, Repr

/-- The reassembly unit; a FREE entry of the context table is `none`, and a history stands oldest key first. -/
structure Reassembly where
  contexts : Table (Option Context) 32
  quota : Table Nat 4
  lifetime : Table Nat 4
  history : Table (List Key) 4
  deriving DecidableEq, Repr

/-- The reassembly unit after device reset (R88). -/
def Reassembly.reset : Reassembly where
  contexts := .fill 32 none
  quota := .fill 4 8
  lifetime := .fill 4 100
  history := .fill 4 []

/-! ### Outbound scheduler (chapter 9) -/

/-- The line record: the fragment on the line, and its message while that message stays SENDING (R144). -/
structure LineRecord where
  fragment : Nat
  descriptor : Option DescNo
  deriving DecidableEq, Repr

/-- The outbound scheduler's state of one link (R144, R146). -/
structure Scheduler where
  outboundQueue : List DescNo
  resendOrder : List DescNo
  outstanding : List DescNo
  nextTag : Tag
  lineRecord : Option LineRecord
  outstandingLimit : Nat
  attemptLimit : Nat
  ackWait : Nat
  refuseBackoff : Nat
  reportDone : Bool
  deriving DecidableEq, Repr

/-- The scheduler of a link after device reset (R167). -/
def Scheduler.reset : Scheduler where
  outboundQueue := []
  resendOrder := []
  outstanding := []
  nextTag := 0
  lineRecord := none
  outstandingLimit := 2
  attemptLimit := 4
  ackWait := 20
  refuseBackoff := 50
  reportDone := true

/-! ### Compose unit (chapter 8) -/

/-- The compose unit. The context is OPEN exactly when a descriptor is present (R130). -/
structure Compose where
  descriptor : Option DescNo
  writeCount : Nat
  writeCountLatch : Byte
  stalled : Bool
  overlong : Bool
  submitted : DescNo
  deriving DecidableEq, Repr

/-- The compose unit after device reset (R143). -/
def Compose.reset : Compose where
  descriptor := none
  writeCount := 0
  writeCountLatch := 0
  stalled := false
  overlong := false
  submitted := 0

/-! ### Notice queue (chapter 10) -/

/-- Why a message failed (R160). -/
inductive FailReason where
  | noAck | refusedNoContext | refusedNoBlock | stoppedAtLimit
  deriving DecidableEq, Repr

/-- The kind of a notice record with the fields that the kind carries (R169). -/
inductive NoticeBody where
  | txDone (peer : Byte) (tag : Tag) (reference : Byte) (attempts : Nat)
  | txFailed (peer : Byte) (tag : Tag) (reference : Byte) (attempts : Nat) (reason : FailReason)
  | rxExpired (peer : Byte) (tag : Tag) (received : Nat)
  | rxMalformed (peer : Byte) (tag : Tag) (received : Nat)
  | linkStopped (contexts : Nat)
  | linkReset (contexts readyMessages outboundMessages : Nat)
  deriving DecidableEq, Repr

/-- A notice record (R169). -/
structure Notice where
  link : Link
  stamp : Tick
  body : NoticeBody
  deriving DecidableEq, Repr

/-- The notice queue, oldest record first (R168). -/
structure NoticeQueue where
  records : List Notice
  overflow : Nat
  deriving DecidableEq, Repr

/-- The notice queue after device reset (R173). -/
def NoticeQueue.reset : NoticeQueue := ⟨[], 0⟩

/-! ### Service arbiter (chapter 7) -/

/-- The service context (R112). The source of a notice is always source 4. -/
inductive ServiceContext where
  | empty
  | message (source : Link) (bidAtTake : Nat) (descriptor : DescNo)
  | notice (bidAtTake : Nat) (record : Notice)
  deriving DecidableEq, Repr

/-- The service arbiter. -/
structure Arbiter where
  linkWeight : Table Nat 4
  noticeWeight : Nat
  threshold : Nat
  attentionEnable : Bool
  service : ServiceContext
  cursor : Nat
  cursorReadLatch : Byte
  cursorWriteLatch : Byte
  overread : Bool
  deriving DecidableEq, Repr

/-- The service arbiter after device reset (R129). -/
def Arbiter.reset : Arbiter where
  linkWeight := .fill 4 2
  noticeWeight := 4
  threshold := 0
  attentionEnable := false
  service := .empty
  cursor := 0
  cursorReadLatch := 0
  cursorWriteLatch := 0
  overread := false

/-! ### Host port (chapter 11) -/

/-- The device state (R190). -/
inductive DeviceState where
  | initialising | ready
  deriving DecidableEq, Repr

/-- A command outcome (R183). -/
inductive CommandOutcome where
  | ok | none | busy | state | badParam | noResource | noRoom | notReady | unknown
  deriving DecidableEq, Repr

/-- The host port. `resetLow` says that the RESET line is held low (R188); `dataBus` is the byte that the part
drives on D0 to D7, when it drives them (R178; log entry 15). -/
structure HostPort where
  device : DeviceState
  resetLow : Bool
  linkSelect : Link
  p0 : Byte
  p1 : Byte
  p2 : Byte
  command : Byte
  outcome : CommandOutcome
  cfgReject : Bool
  ceilingLatch : Table Byte 4
  dataBus : Option Byte
  deriving DecidableEq, Repr

/-- The host port after device reset (R191), with the RESET line at the level given and the data lines as they were. -/
def HostPort.reset (resetLow : Bool) (dataBus : Option Byte) : HostPort where
  device := .initialising
  resetLow := resetLow
  linkSelect := 0
  p0 := 0
  p1 := 0
  p2 := 0
  command := 0
  outcome := .ok
  cfgReject := false
  ceilingLatch := .fill 4 0
  dataBus := dataBus

/-! ### The input pins (section 11.8) -/

/-- The levels at the input pins of the host bus and of the receive lines. RESET and CLKIN are no part of it: their
events are commands and steps. -/
structure Pins where
  cs : Level
  rd : Level
  wr : Level
  address : BitVec 7
  data : Byte
  rxd : Table Level 4
  deriving DecidableEq, Repr

/-- The pins at rest: no access, every receive line at mark (R2). -/
def Pins.rest : Pins where
  cs := .high
  rd := .high
  wr := .high
  address := 0
  data := 0
  rxd := .fill 4 .high

/-- What the world puts on the input pins: their present levels and those of the reference periods to come, after which
they stay as they are (DESIGN CHOICE, log entry 26). `voided` says that the bus access in progress is ignored (R178,
R188; log entry 27). -/
structure Inputs where
  pins : Pins
  coming : List Pins
  voided : Bool
  deriving DecidableEq, Repr

/-- The input pins as the model starts: at rest, with nothing to come (DESIGN CHOICE, log entry 26). -/
def Inputs.reset : Inputs := ⟨.rest, [], false⟩

/-! ### The whole part -/

/-- The state of the MC-4, with the queue of the commands that wait, first in first out (log entry 23), and the levels
at its input pins (log entry 26). What the rules fix as a function of this state is computed and has no field (log
entry 24). -/
structure State where
  pending : List Instr
  ports : Table LinkPort 4
  time : TimeBase
  pool : Pool
  table : MessageTable
  reasm : Reassembly
  sched : Table Scheduler 4
  compose : Compose
  notices : NoticeQueue
  arbiter : Arbiter
  host : HostPort
  inputs : Inputs
  deriving DecidableEq, Repr

/-- The MC-4 after reset, at the start of initialisation with the RESET line back high; no block data written and no
command waiting (DESIGN CHOICE, log entry 1). -/
def State.reset : State where
  pending := []
  ports := .fill 4 .reset
  time := .reset
  pool := .reset []
  table := .reset
  reasm := .reset
  sched := .fill 4 .reset
  compose := .reset
  notices := .reset
  arbiter := .reset
  host := .reset false none
  inputs := .reset

/-- The reasons the machine could stop with a fault. There is none: the spec gives every command an effect in every
state and describes no fault (log entry 25). -/
inductive Fault
  deriving DecidableEq, Repr

/-- The reasons a command could be refused a meaning. -/
inductive Refusal where
  /-- Raised by `exec` alone, for a command whose meaning is not written; no arm raises it. Safe: the machine stops. -/
  | notModelled (mnemonic : String)
  deriving DecidableEq, Repr

end Sys2Proof.Machine
end

