-- ==== Sys2Proof/Machine/Frame.lean ====
section
/-! DEFINITION. DFL frames as bytes: the check, the layout, what the transmitter builds and what the receiver makes of
a complete frame (sections 1.3 and 1.4, section 11.7). -/

namespace Sys2Proof.Machine

/-! ### The check (R6) -/

/-- One bit step of the CRC with generator x^16 + x^12 + x^5 + 1. -/
def crcBit (c : BitVec 16) : BitVec 16 := if c.msb then (c <<< 1) ^^^ 0x1021#16 else c <<< 1

/-- One byte fed into the CRC, most significant bit first. -/
def crcByte (c : BitVec 16) (b : Byte) : BitVec 16 :=
  (List.range 8).foldl (fun r _ => crcBit r) (c ^^^ (b.setWidth 16 <<< 8))

/-- The check over a sequence of bytes. -/
def checkOf (bytes : List Byte) : BitVec 16 := bytes.foldl crcByte 0xFFFF#16

/-- The two check bytes, high byte first. -/
def checkBytes (c : BitVec 16) : List Byte := [c.extractLsb' 8 8, c.extractLsb' 0 8]

/-! ### The layout (R4, section 11.7) -/

/-- The fields of a frame between its start byte and its check. -/
structure Frame where
  kind : Byte
  destination : Byte
  origin : Byte
  tag : Byte
  fragmentByte : Byte
  payload : List Byte
  deriving DecidableEq, Repr

/-- The bytes that the check covers. -/
def Frame.body (f : Frame) : List Byte :=
  [f.kind, f.destination, f.origin, f.tag, f.fragmentByte, lowByte f.payload.length] ++ f.payload

/-- The bytes of a frame in the order they are sent. -/
def Frame.bytes (f : Frame) : List Byte := Config.startByte :: f.body ++ checkBytes (checkOf f.body)

/-- The payload length that a frame buffer declares. -/
def declaredLength (buf : List Byte) : Nat := (buf.getD 6 0).toNat

/-- The fields of a received frame. -/
def frameOf (buf : List Byte) : Frame where
  kind := buf.getD 1 0
  destination := buf.getD 2 0
  origin := buf.getD 3 0
  tag := buf.getD 4 0
  fragmentByte := buf.getD 5 0
  payload := (buf.drop 7).take (declaredLength buf)

/-- The two check bytes received equal the check computed over kind to payload (R6). -/
def checkMatches (buf : List Byte) : Bool :=
  (buf.drop (7 + declaredLength buf)).take 2 == checkBytes (checkOf ((buf.drop 1).take (6 + declaredLength buf)))

/-! ### Fields in numbers -/

/-- The final flag of a fragment byte. -/
def finalFlag (b : Byte) : Bool := b.getLsbD 7

/-- The fragment number of a fragment byte. -/
def fragmentNumber (b : Byte) : FragNo := Fin.ofNat 16 b.toNat

/-- A reserved bit of the fragment byte is set. -/
def reservedBits (b : Byte) : Bool := b &&& 0x70#8 != 0

/-- The fragment byte of a fragment. -/
def fragmentByteOf (n : Nat) (final : Bool) : Byte := BitVec.ofNat 8 (n + if final then 128 else 0)

/-- The tag as a frame carries it. -/
def tagByte (t : Tag) : Byte := BitVec.ofNat 8 t.val

/-- The reason byte of a REFUSE (R5). -/
def reasonByte : RefuseReason → Byte
  | .noContext => 1
  | .noBlock => 2

/-! ### The frames that are sent (R15) -/

/-- The frame of a control request; `own` is the link's station address. -/
def controlFrame (own : Nat) (r : Request) : Frame where
  kind := match r.kind with | .ack => Config.kindAck | .refuse _ => Config.kindRefuse
  destination := r.destination
  origin := lowByte own
  tag := tagByte r.tag
  fragmentByte := 0
  payload := match r.kind with | .ack => [] | .refuse reason => [reasonByte reason]

/-- The frame of a fragment of an outbound message. -/
def dataFrame (own : Nat) (peer : Byte) (tag : Tag) (n : Nat) (final : Bool) (payload : List Byte) : Frame where
  kind := Config.kindData
  destination := peer
  origin := lowByte own
  tag := tagByte tag
  fragmentByte := fragmentByteOf n final
  payload := payload

/-! ### What a complete frame is (R10 to R13) -/

/-- Where a frame being received stands: bytes still to come, all bytes received, or a payload length above 64
received (R8). -/
inductive RxProgress where
  | unfinished | complete | oversized
  deriving DecidableEq, Repr

/-- Where the frame in a receive frame buffer stands. -/
def rxProgress (buf : List Byte) : RxProgress :=
  if buf.length < 7 then .unfinished
  else if Config.blockSize < declaredLength buf then .oversized
  else if buf.length < 9 + declaredLength buf then .unfinished
  else .complete

/-- A good frame breaks a format condition (R11); `own` is the link's station address. -/
def breaksFormat (own : Nat) (f : Frame) : Bool :=
  !(f.kind == Config.kindData || f.kind == Config.kindAck || f.kind == Config.kindRefuse)
  || decide (63 < f.tag.toNat)
  || reservedBits f.fragmentByte
  || f.origin == 0 || f.origin == Config.allStations || f.origin.toNat == own
  || f.destination == 0
  || (f.kind == Config.kindAck && (f.payload.length != 0 || f.fragmentByte != 0))
  || (f.kind == Config.kindRefuse
      && (f.payload.length != 1 || !(f.payload.getD 0 0 == 1 || f.payload.getD 0 0 == 2) || f.fragmentByte != 0))
  || ((f.kind == Config.kindAck || f.kind == Config.kindRefuse) && f.destination == Config.allStations)
  || (f.kind == Config.kindData && !finalFlag f.fragmentByte && f.payload.length != Config.blockSize)
  || (f.kind == Config.kindData && finalFlag f.fragmentByte && f.payload.length == 0
      && fragmentNumber f.fragmentByte != 0)

/-- A well-formed frame passes the address filter (R12). -/
def passesFilter (own : Nat) (acceptBroadcast : Bool) (f : Frame) : Bool :=
  f.destination.toNat == own
  || (f.kind == Config.kindData && f.destination == Config.allStations && acceptBroadcast)

/-- What an accepted frame is handed over as (R13). -/
def handOver (f : Frame) : HandedFrame :=
  let tag : Tag := Fin.ofNat 64 f.tag.toNat
  if f.kind == Config.kindAck then .ack f.origin tag
  else if f.kind == Config.kindRefuse then
    .refuse f.origin tag (if f.payload.getD 0 0 == 1 then .noContext else .noBlock)
  else .data {
    origin := f.origin
    broadcast := f.destination == Config.allStations
    tag := tag
    number := fragmentNumber f.fragmentByte
    final := finalFlag f.fragmentByte
    payload := f.payload }

/-- The receiver's decision on a complete frame. -/
inductive Classified where
  | checkError | formatError | ignored
  | accepted (h : HandedFrame)
  deriving DecidableEq, Repr

/-- A complete frame is judged: check first (R10), then format (R11), then address (R12). -/
def classify (own : Nat) (acceptBroadcast : Bool) (buf : List Byte) : Classified :=
  if !checkMatches buf then .checkError
  else if breaksFormat own (frameOf buf) then .formatError
  else if passesFilter own acceptBroadcast (frameOf buf) then .accepted (handOver (frameOf buf))
  else .ignored

end Sys2Proof.Machine
end

