-- ==== Sys2Proof/Machine/Ops.lean ====
section
/-! DEFINITION. The named operations over the state: access to its parts, the memory of the block pool, grants and
returns of blocks, allocation and freeing of descriptors, contexts, and the recording of notices. -/

namespace Sys2Proof.Machine

/-! ### Parts of the state -/

/-- Link port `L`. -/
def State.port (s : State) (L : Link) : LinkPort := s.ports.look L

/-- The state with link port `L` replaced. -/
def State.setPort (s : State) (L : Link) (p : LinkPort) : State := { s with ports := s.ports.put L p }

/-- The scheduler of link `L`. -/
def State.sch (s : State) (L : Link) : Scheduler := s.sched.look L

/-- The state with the scheduler of link `L` replaced. -/
def State.setSch (s : State) (L : Link) (x : Scheduler) : State := { s with sched := s.sched.put L x }

/-- Descriptor `d`. -/
def State.desc (s : State) (d : DescNo) : Descriptor := s.table.descriptors.look d

/-- The state with descriptor `d` replaced. -/
def State.setDesc (s : State) (d : DescNo) (x : Descriptor) : State :=
  { s with table := { s.table with descriptors := s.table.descriptors.put d x } }

/-- The ready queue of link `L`, head message first (R54). -/
def State.ready (s : State) (L : Link) : List DescNo := s.table.readyQueue.look L

/-- The state with the ready queue of link `L` replaced. -/
def State.setReady (s : State) (L : Link) (q : List DescNo) : State :=
  { s with table := { s.table with readyQueue := s.table.readyQueue.put L q } }

/-- Entry `e` of the context table; `none` is FREE (R62). -/
def State.context (s : State) (e : EntryNo) : Option Context := s.reasm.contexts.look e

/-- The state with entry `e` of the context table replaced. -/
def State.setContext (s : State) (e : EntryNo) (c : Option Context) : State :=
  { s with reasm := { s.reasm with contexts := s.reasm.contexts.put e c } }

/-- The duplicate history of link `L`, oldest key first (R89). -/
def State.history (s : State) (L : Link) : List Key := s.reasm.history.look L

/-- The state with the duplicate history of link `L` replaced. -/
def State.setHistory (s : State) (L : Link) (h : List Key) : State :=
  { s with reasm := { s.reasm with history := s.reasm.history.put L h } }

/-- The value of the tick counter when an event is taken (R25). -/
def State.now (s : State) : Tick := s.time.tickCounter

/-- The part takes commands: it is READY and the RESET line is high (R182, R188). -/
def State.operational (s : State) : Prop := s.host.device = .ready ∧ s.host.resetLow = false

/-! ### The memory of the block pool

A list of address and byte pairs with strictly rising addresses, none of whose bytes is the one that an unlisted address
reads as. -/

/-- What an address reads as that no store has reached: DESIGN CHOICE, log entry 8. -/
abbrev Memory.background : Byte := 0

/-- The byte at an address. -/
def Memory.read : List Host.Cell → Nat → Byte
  | [], _ => Memory.background
  | (a, b) :: m, k => if a = k then b else Memory.read m k

/-- The memory with one byte stored, in canonical form again. -/
def Memory.write : List Host.Cell → Nat → Byte → List Host.Cell
  | [], k, v => if v = Memory.background then [] else [(k, v)]
  | (a, b) :: m, k, v =>
    if k < a then (if v = Memory.background then (a, b) :: m else (k, v) :: (a, b) :: m)
    else if k = a then (if v = Memory.background then m else (k, v) :: m)
    else (a, b) :: Memory.write m k v

/-- The memory with bytes stored at rising addresses. -/
def Memory.writeBytes : List Host.Cell → Nat → List Byte → List Host.Cell
  | m, _, [] => m
  | m, k, v :: vs => Memory.writeBytes (Memory.write m k v) (k + 1) vs

/-- The canonical form of a memory. -/
abbrev Memory.wf (m : List Host.Cell) : Prop :=
  m.Pairwise (fun a b => a.1 < b.1) ∧ ∀ c ∈ m, c.2 ≠ Memory.background

/-- The address of byte `o` of block `b`. -/
def blockAddress (b : BlockNo) (o : Nat) : Nat := Config.blockSize * b.val + o

/-- Byte `o` of block `b`. -/
def State.blockByte (s : State) (b : BlockNo) (o : Nat) : Byte := Memory.read s.pool.blocks (blockAddress b o)

/-- The first `n` bytes of block `b`. -/
def State.blockBytes (s : State) (b : BlockNo) (n : Nat) : List Byte := (List.range n).map (s.blockByte b)

/-! ### Grants and returns (chapter 3) -/

/-- A grant: the block at the head of the free list leaves it with used length 0 (R33, R34). -/
def grantBlock (s : State) : Option (BlockNo × State) :=
  match s.pool.freeList with
  | [] => none
  | b :: rest =>
    some (b, { s with pool := { s.pool with freeList := rest, usedLength := s.pool.usedLength.put b 0 } })

/-- A return: the blocks are appended to the tail of the free list in the order given, each with used length 0
(R33, R34). -/
def returnBlocks (bs : List BlockNo) (s : State) : State :=
  { s with pool := { s.pool with
      freeList := s.pool.freeList ++ bs,
      usedLength := bs.foldl (fun u b => u.put b 0) s.pool.usedLength } }

/-- The blocks in the occupied fragment slots of a context, in ascending fragment number (R42). -/
def slotBlocks (c : Context) : List BlockNo := (List.finRange 16).filterMap c.slots.look

/-- The blocks that an entry of the context table holds for link `L`. -/
def entryHold (L : Link) (c : Option Context) : Nat :=
  match c with
  | some c => if c.link = L then (slotBlocks c).length else 0
  | none => 0

/-- The blocks that a descriptor holds for the inbound side of link `L`: the chain of a READY or SERVICE message. -/
def descriptorHold (L : Link) (x : Descriptor) : Nat :=
  if x.link = L ∧ (x.state = .ready ∨ x.state = .service) then x.chain.length else 0

/-- The inbound hold of link `L` (R36). -/
def State.inboundHold (s : State) (L : Link) : Nat :=
  ((List.finRange 32).map fun e => entryHold L (s.context e)).sum
    + ((List.finRange 96).map fun d => descriptorHold L (s.desc d)).sum

/-- A reassembly claim for link `L` (R38). -/
def reassemblyClaim (L : Link) (s : State) : Option (BlockNo × State) :=
  if s.pool.reserve < s.pool.freeList.length ∧ s.inboundHold L < s.pool.ceiling.look L then grantBlock s else none

/-- A compose claim (R39). -/
def composeClaim (s : State) : Option (BlockNo × State) := grantBlock s

/-- The payload of a fragment is stored in its block, whose used length becomes the payload length (R33). -/
def storePayload (b : BlockNo) (payload : List Byte) (s : State) : State :=
  { s with pool := { s.pool with
      blocks := Memory.writeBytes s.pool.blocks (blockAddress b 0) payload,
      usedLength := s.pool.usedLength.put b payload.length } }

/-- One byte is stored in a block at the offset its used length gives, and the used length rises by 1 (R33, R133). -/
def appendByte (b : BlockNo) (v : Byte) (s : State) : State :=
  { s with pool := { s.pool with
      blocks := Memory.write s.pool.blocks (blockAddress b (s.pool.usedLength.look b)) v,
      usedLength := s.pool.usedLength.put b (s.pool.usedLength.look b + 1) } }

/-! ### Descriptors (chapter 4) -/

/-- The lowest-numbered FREE descriptor (R50). -/
def State.lowestFree (s : State) : Option DescNo :=
  (List.finRange 96).find? fun d => (s.desc d).state == .free

/-- A descriptor claim: the lowest-numbered FREE descriptor receives the record of the claim (R50). -/
def claimDescriptor (record : Descriptor) (s : State) : Option (DescNo × State) :=
  s.lowestFree.map fun d => (d, s.setDesc d record)

/-- The number of FREE descriptors (R53). -/
def State.freeDescriptors (s : State) : Nat :=
  (List.finRange 96).countP fun d => (s.desc d).state == .free

/-- The descriptor is set to FREE with the cleared record (R52). -/
def freeDescriptor (d : DescNo) (s : State) : State := s.setDesc d .cleared

/-- A message ends: its chain is returned in chain order and then its descriptor is freed (R43, R52). -/
def freeMessage (d : DescNo) (s : State) : State := freeDescriptor d (returnBlocks (s.desc d).chain s)

/-- Several messages end one after another, in the order given (R44). -/
def freeMessages : List DescNo → State → State
  | [], s => s
  | d :: ds, s => freeMessages ds (freeMessage d s)

/-! ### Contexts (chapter 5) -/

/-- The entry of the context table that holds a key. -/
def State.findContext (s : State) (L : Link) (origin : Byte) (tag : Tag) : Option EntryNo :=
  (List.finRange 32).find? fun e =>
    match s.context e with
    | some c => c.link == L && c.origin == origin && c.tag == tag
    | none => false

/-- The lowest-numbered FREE entry of the context table (R72). -/
def State.freeEntry (s : State) : Option EntryNo :=
  (List.finRange 32).find? fun e => (s.context e).isNone

/-- The entry is IN_USE by link `L`. -/
def State.entryOfLink (s : State) (L : Link) (e : EntryNo) : Bool :=
  match s.context e with
  | some c => c.link == L
  | none => false

/-- The IN_USE entries of link `L`, in ascending order of entry number. -/
def State.entriesOfLink (s : State) (L : Link) : List EntryNo := (List.finRange 32).filter (s.entryOfLink L)

/-- The context count of link `L` (R62, R65). -/
def State.contextCount (s : State) (L : Link) : Nat := (s.entriesOfLink L).length

/-- The number of fragment numbers in a received set. -/
def receivedCount (c : Context) : Nat := (List.finRange 16).countP fun n => c.received.look n

/-- A context is abandoned: its slots' blocks are returned in ascending fragment number, its descriptor is freed and
its entry becomes FREE (R42, R52). -/
def abandonContext (e : EntryNo) (s : State) : State :=
  match s.context e with
  | some c => (freeDescriptor c.descriptor (returnBlocks (slotBlocks c) s)).setContext e none
  | none => s

/-- Contexts are abandoned one after another, in the order given. -/
def abandonContexts : List EntryNo → State → State
  | [], s => s
  | e :: es, s => abandonContexts es (abandonContext e s)

/-! ### Notices (chapter 10) -/

/-- A record is offered to the notice queue: it joins the tail, or is lost and counted when the queue holds 32
(R171). -/
def recordNotice (n : Notice) (s : State) : State :=
  if s.notices.records.length < Config.noticeCapacity then
    { s with notices := { s.notices with records := s.notices.records ++ [n] } }
  else { s with notices := { s.notices with overflow := min Config.counterMax (s.notices.overflow + 1) } }

/-! ### Accesses of the host (chapter 11) -/

/-- The part drives a byte on D0 to D7 (R178). -/
def driveBus (v : Byte) (s : State) : State := { s with host := { s.host with dataBus := some v } }

/-- A refused configuration write sets CFG_REJECT (R184). -/
def rejectWrite (s : State) : State := { s with host := { s.host with cfgReject := true } }

/-- A host write takes effect unless the RESET line is held low, when it is ignored (R188). -/
def hostWrite (effect : State → State) (s : State) : State := if s.host.resetLow then s else effect s

/-- A host read drives the value its address has when it is taken; its other effects take place unless the RESET line
is held low, when every address keeps its value after reset (R178, R188; log entry 14). -/
def hostRead (value : State → Byte) (effect : State → State) (s : State) : State :=
  driveBus (value s) (if s.host.resetLow then s else effect s)

/-- A command writes its code and its outcome to the command and outcome registers (R182, R183). -/
def recordOutcome (code : Byte) (o : CommandOutcome) (s : State) : State :=
  { s with host := { s.host with command := code, outcome := o } }

/-- A write of the command register: NOT_READY during initialisation, and otherwise what the command's own rule gives,
with its outcome (R182, R190). -/
def issueCommand (code : Byte) (body : State → State × CommandOutcome) : State → State :=
  hostWrite fun s =>
    match s.host.device with
    | .initialising => recordOutcome code .notReady s
    | .ready => recordOutcome code (body s).2 (body s).1

/-- The link that parameter P0 names, when it is 0 to 3 (R18, R181). -/
def State.linkParameter (s : State) : Option Link :=
  if h : s.host.p0.toNat < 4 then some ⟨s.host.p0.toNat, h⟩ else none

end Sys2Proof.Machine
end

