-- ==== Sys2Proof/Machine/Line.lean ====
section
/-! DEFINITION. Characters on the link lines: the bits of a character, the level of a transmit line, and what a receiver
makes of the samples of its line (section 1.2). -/

namespace Sys2Proof.Machine

/-- The level of a bit on a line: mark for 1 and space for 0 (R2). -/
def levelOf (bit : Bool) : Level := if bit then .high else .low

/-- The ten bits of a character: a start bit at space, eight data bits sent least significant bit first, and a stop bit
at mark (R2). -/
def characterLevels (b : Byte) : List Level := .low :: (List.range 8).map (fun i => levelOf (b.getLsbD i)) ++ [.high]

/-- The bits of a frame: its characters directly one after another (R2). -/
def lineLevels (bytes : List Byte) : List Level := bytes.flatMap characterLevels

/-- Reference periods that a frame of the given bytes takes on the line (R2, R3). -/
def framePeriods (code : Nat) (bytes : List Byte) : Nat :=
  bytes.length * Config.characterBits * Config.bitPeriods code

/-- The level of the transmit line of link `L`: in ACTIVE, the bit of the transmit frame buffer that the reference
periods since frame start have reached, and otherwise mark (R2, R14, R15, R22). -/
def State.txd (s : State) (L : Link) : Level :=
  match (s.port L).transmitter with
  | .active =>
    (lineLevels (s.port L).txBuffer).getD ((s.port L).txPeriods / Config.bitPeriods (s.port L).lineRate) .high
  | .gap | .idle => .high

/-- What the samples of a receive line have ended in: a character, or a character whose stop bit is at space (R2). -/
inductive LineEvent where
  | character (b : Byte)
  | error
  deriving DecidableEq, Repr

/-- A data bit moves into the character from above, since the least significant bit comes first (R2). -/
def shiftIn (v : Level) (data : Byte) : Byte := data >>> 1 ||| if v = .high then 0x80#8 else 0

/-- A sample in a character, `n` samples after the first one at space: the start bit is confirmed at its middle or was a
false start, and each data bit and the stop bit are taken at mid-bit (R2; log entry 28). -/
def sampleCharacter (v : Level) (n : Nat) (data : Byte) : Sampler × Option LineEvent :=
  if n = Config.middleSample ∧ v = .high then (.waitStart, none)
  else if n = Config.stopSample then
    match v with
    | .high => (.waitStart, some (.character data))
    | .low => (.waitMark, some .error)
  else if Config.middleSample < n ∧ n % Config.samplesPerBit = Config.middleSample then
    (.character n (shiftIn v data), none)
  else (.character n data, none)

/-- One sample of a receive line (R2). A start bit is a change from mark to space. -/
def sampleLine (v : Level) : Sampler → Sampler × Option LineEvent
  | .waitMark => (if v = .high then .waitStart else .waitMark, none)
  | .waitStart => (if v = .high then .waitStart else .character 0 0, none)
  | .character n data => sampleCharacter v (n + 1) data

/-- The line is in no character, or in one whose start bit is not confirmed (R2). -/
def Sampler.unconfirmed : Sampler → Bool
  | .waitMark | .waitStart => true
  | .character n _ => decide (n < Config.middleSample)

end Sys2Proof.Machine
end

