-- ==== Sys2Proof/Machine/Flags.lean ====
section
/-! DEFINITION. Counters and indicators of a link (chapter 10), bids, the winner and ATTN (chapter 7), and the global
status (chapter 11). -/

namespace Sys2Proof.Machine

/-! ### Counters (R174, R175) -/

/-- The eight counters of a link, in the order of their window addresses. -/
inductive CounterName where
  | checkErrors | formatErrors | duplicateFragments | duplicateMessages
  | noContextDrops | noBlockDrops | controlLost | stray
  deriving DecidableEq, Repr

/-- A counter rises by 1 and stops at 255 (R174). -/
def saturate (n : Nat) : Nat := min Config.counterMax (n + 1)

/-- The counters with one of them incremented. -/
def Counters.bump : CounterName → Counters → Counters
  | .checkErrors, k => { k with checkErrors := saturate k.checkErrors }
  | .formatErrors, k => { k with formatErrors := saturate k.formatErrors }
  | .duplicateFragments, k => { k with duplicateFragments := saturate k.duplicateFragments }
  | .duplicateMessages, k => { k with duplicateMessages := saturate k.duplicateMessages }
  | .noContextDrops, k => { k with noContextDrops := saturate k.noContextDrops }
  | .noBlockDrops, k => { k with noBlockDrops := saturate k.noBlockDrops }
  | .controlLost, k => { k with controlLost := saturate k.controlLost }
  | .stray, k => { k with stray := saturate k.stray }

/-- Link `L` counts one occurrence of a cause. -/
def count (L : Link) (c : CounterName) (s : State) : State :=
  s.setPort L { s.port L with counters := (s.port L).counters.bump c }

/-- The loss indicator of link `L` is set (R175). -/
def setLoss (L : Link) (s : State) : State := s.setPort L { s.port L with lossIndicator := true }

/-! ### Control requests (R98, R99) -/

/-- A request joins link `L`'s control queue, or is dropped and counted as lost when the queue holds 8. -/
def joinRequest (L : Link) (r : Request) (s : State) : State :=
  if (s.port L).controlQueue.length < Config.controlCapacity then
    s.setPort L { s.port L with controlQueue := (s.port L).controlQueue ++ [r] }
  else count L .controlLost s

/-! ### Bids and the winner (R105 to R111) -/

/-- A source of items: a link's ready queue, or the notice queue as source 4. -/
inductive Source where
  | link (L : Link)
  | noticeQueue
  deriving DecidableEq, Repr

/-- The number of a source. -/
def Source.number : Source → Nat
  | .link L => L.val
  | .noticeQueue => 4

/-- The bid of link `L`, when it is a candidate (R105). -/
def State.linkBid (s : State) (L : Link) : Option Nat :=
  match s.ready L with
  | [] => none
  | d :: rest =>
    some (s.arbiter.linkWeight.look L * Config.weightStep
      + min Config.urgencyMax ((d :: rest).length + (s.desc d).age))

/-- The bid of the notice queue, when it is a candidate (R106). -/
def State.noticeBid (s : State) : Option Nat :=
  if s.notices.records = [] then none
  else some (s.arbiter.noticeWeight * Config.weightStep + min Config.urgencyMax s.notices.records.length)

/-- The bid of a source, when it is a candidate. -/
def State.bid (s : State) : Source → Option Nat
  | .link L => s.linkBid L
  | .noticeQueue => s.noticeBid

/-- The five sources in the order of their numbers. -/
def allSources : List Source := [.link 0, .link 1, .link 2, .link 3, .noticeQueue]

/-- The better of the best candidate so far and the next source: the higher bid, and of equal bids the earlier
source. -/
def betterBid (s : State) (best : Option (Source × Nat)) (x : Source) : Option (Source × Nat) :=
  match s.bid x, best with
  | none, _ => best
  | some n, none => some (x, n)
  | some n, some (y, m) => if m < n then some (x, n) else some (y, m)

/-- The winner among the current candidates and its bid (R111). -/
def State.winner (s : State) : Option (Source × Nat) := allSources.foldl (betterBid s) none

/-- The lead source and the lead bid, both 0 without a candidate (R109). -/
def State.leadSource (s : State) : Nat := (s.winner.map fun w => w.1.number).getD 0
def State.leadBid (s : State) : Nat := (s.winner.map fun w => w.2).getD 0

/-- ATTN is asserted (R110). -/
def State.attn (s : State) : Bool :=
  s.arbiter.attentionEnable && s.arbiter.service == .empty && decide (s.arbiter.threshold < s.leadBid)

/-! ### The global status (R186) -/

/-- One bit of a byte at its place. -/
def bitAt (place : Nat) (b : Bool) : Byte := if b then BitVec.ofNat 8 (2 ^ place) else 0

/-- The byte at address 03h. -/
def State.globalStatus (s : State) : Byte :=
  bitAt 0 (s.host.device == .ready) ||| bitAt 1 s.host.cfgReject ||| bitAt 2 s.arbiter.overread
    ||| bitAt 3 s.compose.stalled ||| bitAt 4 s.compose.overlong ||| bitAt 5 s.compose.descriptor.isSome
    ||| bitAt 6 s.attn

end Sys2Proof.Machine
end

