-- ==== Sys2Proof/Machine/TimeBase.lean ====
section
/-! DEFINITION. The time base: deadlines that are due, what a tick does to it, and age pulses (chapter 2). -/

namespace Sys2Proof.Machine

/-- The lifetime deadline of the entry's context is reached (R28, R83). -/
def State.contextDue (s : State) (e : EntryNo) : Bool :=
  match s.context e with
  | some c => c.deadline == s.now
  | none => false

/-- The message waits in `w` (AWAIT_ACK or BACKOFF) and its armed deadline is reached (R28). -/
def State.waitDue (s : State) (w : DescState) (d : DescNo) : Bool :=
  (s.desc d).state == w && (s.desc d).deadline == some (.armed s.now)

/-- The deadline armed now for an interval of `n` ticks (R27). -/
def State.deadlineAfter (s : State) (n : Nat) : Tick := s.now + BitVec.ofNat 16 n

/-- A tick: period count 0, a new interval length from the prescale, the counter and the age pulse divider advanced,
and an age pulse produced when the divider equals the age-step (R23, R25, R29). -/
def advanceTick (t : TimeBase) : TimeBase :=
  { t with
    periodCount := 0
    intervalLength := Config.intervalOf t.prescale
    tickCounter := t.tickCounter + 1
    divider :=
      if t.ageStep = 0 then t.divider else if t.divider + 1 = t.ageStep then 0 else t.divider + 1
    agePulses := if t.ageStep ≠ 0 ∧ t.divider + 1 = t.ageStep then t.agePulses + 1 else t.agePulses }

/-- The age of a READY message rises by 1 and stops at 31 (R30). -/
def agedDescriptor (x : Descriptor) : Descriptor :=
  if x.state = .ready then { x with age := min Config.ageMax (x.age + 1) } else x

/-- The message table takes an age pulse (R30). -/
def takeAgePulse (s : State) : State :=
  { s with
    table := { s.table with descriptors := s.table.descriptors.mapAll agedDescriptor }
    time := { s.time with agePulses := s.time.agePulses - 1 } }

/-- The message table takes a pulse that the time base has produced and that has not yet been taken (R29, R30; log
entry 6). -/
def agePulsePeriod (s : State) : State := if 0 < s.time.agePulses then takeAgePulse s else s

/-- AGE_PULSE (R30). -/
def execAgePulse (s : State) : Host.Outcome State Fault Refusal := .next (agePulsePeriod s)

end Sys2Proof.Machine
end

