-- ==== Sys2Proof/Machine/Reassembly.lean ====
section
/-! DEFINITION. The reassembly unit: what happens to a fragment, completion, and expiry (chapters 5 and 6). -/

namespace Sys2Proof.Machine

/-- The handed-over frame of link `L` has been taken, or is discarded (R13, R66, R152). -/
def clearHandedOver (L : Link) (s : State) : State := s.setPort L { s.port L with handedOver := none }

/-- A request in answer to a single fragment is made only when the fragment is final and was addressed to the link's
own station address (R68, R70, R71, R77, R81). -/
def answerFragment (L : Link) (f : Fragment) (k : RequestKind) (s : State) : State :=
  if f.final && !f.broadcast then joinRequest L ⟨k, f.origin, f.tag⟩ s else s

/-- A fragment of a message already completed (R68). -/
def duplicateMessage (L : Link) (f : Fragment) (s : State) : State :=
  answerFragment L f .ack (count L .duplicateMessages s)

/-- A fragment dropped as NO_CONTEXT (R70). -/
def dropNoContext (L : Link) (f : Fragment) (s : State) : State :=
  answerFragment L f (.refuse .noContext) (setLoss L (count L .noContextDrops s))

/-- A fragment dropped as NO_BLOCK (R71, R77). -/
def dropNoBlock (L : Link) (f : Fragment) (s : State) : State :=
  answerFragment L f (.refuse .noBlock) (setLoss L (count L .noBlockDrops s))

/-- A fragment whose number its context has already received (R74). -/
def duplicateFragment (L : Link) (s : State) : State := count L .duplicateFragments s

/-- A fragment conflicts with what its context holds (R75). -/
def conflicts (c : Context) (f : Fragment) : Bool :=
  (match c.final with
    | some n => decide (n < f.number) || (f.final && n != f.number)
    | none => false)
  || (f.final && (List.finRange 16).any fun m => c.received.look m && decide (f.number < m))

/-- A malformed message is abandoned and recorded (R76). -/
def abandonMalformed (L : Link) (e : EntryNo) (c : Context) (s : State) : State :=
  recordNotice ⟨L, s.now, .rxMalformed c.origin c.tag (receivedCount c)⟩ (abandonContext e s)

/-- The context has received exactly the fragments 0 to its final number (R79). -/
def contextWhole (c : Context) : Bool :=
  match c.final with
  | some n => (List.finRange 16).all fun m => c.received.look m == decide (m ≤ n)
  | none => false

/-- The length of a whole message: 64 for each fragment before the final one, and the payload length of the final
fragment, which is the used length of its block (R33, R79). -/
def wholeLength (c : Context) (s : State) : Nat :=
  match c.final with
  | some n =>
    Config.blockSize * n.val
      + (match c.slots.look n with | some b => s.pool.usedLength.look b | none => 0)
  | none => 0

/-- The descriptor of a completed message: READY with age 0, its length, fragment count, chain and stamp set
(R79, R80, R54). -/
def completedDescriptor (c : Context) (s : State) : Descriptor :=
  { s.desc c.descriptor with
    state := .ready
    length := wholeLength c s
    fragmentCount := c.final.map fun n => n.val + 1
    chain := slotBlocks c
    stamp := some s.now
    age := 0 }

/-- A key joins a history at the tail, and the oldest one leaves when the history holds 16 (R91). -/
def appendKey (k : Key) (h : List Key) : List Key :=
  if h.length < Config.historyCapacity then h ++ [k] else h.tail ++ [k]

/-- A whole context is completed: READY message at the tail of the ready queue, entry FREE, key in the history, and an
ACK request for a unicast message (R79, R80). -/
def completeContext (e : EntryNo) (c : Context) (s : State) : State :=
  let x := completedDescriptor c s
  let s := s.setDesc c.descriptor x
  let s := s.setReady c.link (s.ready c.link ++ [c.descriptor])
  let s := s.setContext e none
  let s := s.setHistory c.link (appendKey ⟨c.origin, c.tag⟩ (s.history c.link))
  if x.broadcast then s else joinRequest c.link ⟨.ack, c.origin, c.tag⟩ s

/-- The context with a fragment stored in it; `b` is the block of a payload that is not empty (R78). -/
def contextWith (c : Context) (f : Fragment) (b : Option BlockNo) : Context :=
  { c with
    received := c.received.put f.number true
    final := if f.final then some f.number else c.final
    slots := match b with | some b => c.slots.put f.number (some b) | none => c.slots }

/-- A fragment is stored in the context of entry `e`, and the context is tested for completion (R78, R79). -/
def storeFragment (e : EntryNo) (c : Context) (f : Fragment) (b : Option BlockNo) (s : State) : State :=
  let s := match b with | some b => storePayload b f.payload s | none => s
  let c := contextWith c f b
  if contextWhole c then completeContext e c (s.setContext e (some c)) else s.setContext e (some c)

/-- The context that a fragment of link `L` creates, before the fragment is stored in it (R72). -/
def newContext (L : Link) (f : Fragment) (d : DescNo) (s : State) : Context where
  link := L
  origin := f.origin
  tag := f.tag
  descriptor := d
  received := .fill 16 false
  final := none
  slots := .fill 16 none
  deadline := s.deadlineAfter (s.reasm.lifetime.look L)

/-- The record that a context creation claims a descriptor with (R50). -/
def assemblingRecord (L : Link) (f : Fragment) : Descriptor :=
  { Descriptor.cleared with
    state := .assembling
    direction := some .inbound
    link := L
    peer := f.origin
    broadcast := f.broadcast
    tag := some f.tag }

/-- The first fragment of a new message: entry, descriptor and block are tested in this order, and the first that
fails decides the drop (R69 to R72). -/
def createContext (L : Link) (f : Fragment) (s : State) : State :=
  match s.freeEntry with
  | none => dropNoContext L f s
  | some e =>
    if s.contextCount L < s.reasm.quota.look L then
      match claimDescriptor (assemblingRecord L f) s with
      | none => dropNoContext L f s
      | some (d, s₁) =>
        if f.payload = [] then storeFragment e (newContext L f d s₁) f none s₁
        else
          match reassemblyClaim L s₁ with
          | none => dropNoBlock L f (freeDescriptor d s₁)
          | some (b, s₂) => storeFragment e (newContext L f d s₂) f (some b) s₂
    else dropNoContext L f s

/-- A fragment for the context `c` of entry `e` (cases 3 to 6 of R67). -/
def continueContext (L : Link) (e : EntryNo) (c : Context) (f : Fragment) (s : State) : State :=
  if c.received.look f.number then duplicateFragment L s
  else if conflicts c f then abandonMalformed L e c s
  else if f.payload = [] then storeFragment e c f none s
  else
    match reassemblyClaim L s with
    | none => dropNoBlock L f s
    | some (b, s₁) => storeFragment e c f (some b) s₁

/-- The reassembly unit handles a fragment by the first case that applies (R67). -/
def takeFragment (L : Link) (f : Fragment) (s : State) : State :=
  if (⟨f.origin, f.tag⟩ : Key) ∈ s.history L then duplicateMessage L f s
  else
    match s.findContext L f.origin f.tag with
    | none => createContext L f s
    | some e =>
      match s.context e with
      | some c => continueContext L e c f s
      | none => s

/-- The reassembly unit takes the fragment that link `L` has handed over, while the link is in RUN (R66, R67). -/
def takeHandedFragment (L : Link) (s : State) : State :=
  match (s.port L).handedOver with
  | some (.data f) => if (s.port L).state = .run then takeFragment L f (clearHandedOver L s) else s
  | _ => s

/-- FRAGMENT (R66, R67). -/
def execFragment (L : Link) (s : State) : Host.Outcome State Fault Refusal := .next (takeHandedFragment L s)

/-- A context expires: it is abandoned and recorded with its deadline as the stamp (R83). -/
def expireContext (e : EntryNo) (c : Context) (s : State) : State :=
  recordNotice ⟨c.link, c.deadline, .rxExpired c.origin c.tag (receivedCount c)⟩ (abandonContext e s)

/-- The reassembly unit takes the expiry of an entry's context, with now equal to its deadline (R28, R83). -/
def lifetimeExpiry (e : EntryNo) (s : State) : State :=
  match s.context e with
  | some c => if s.contextDue e then expireContext e c s else s
  | none => s

/-- CONTEXT_LIFETIME_EXPIRY (R28, R83). -/
def execContextLifetimeExpiry (e : EntryNo) (s : State) : Host.Outcome State Fault Refusal := .next (lifetimeExpiry e s)

end Sys2Proof.Machine
end

