-- ==== Sys2Proof/Machine/Outbound.lean ====
section
/-! DEFINITION. The outbound scheduler: acknowledgements and refusals, timers, outcomes, withdrawal, and what a link's
entry to OFF and start do to its messages (chapter 9). -/

namespace Sys2Proof.Machine

/-- The line record loses its descriptor when that is `d`, and keeps its fragment number (R151). -/
def dropFromLine (d : DescNo) (r : Option LineRecord) : Option LineRecord :=
  r.map fun r => if r.descriptor = some d then { r with descriptor := none } else r

/-- The message leaves every record of its link's scheduler (R144, R153, R161). -/
def leaveScheduler (L : Link) (d : DescNo) (s : State) : State :=
  s.setSch L { s.sch L with
    outboundQueue := (s.sch L).outboundQueue.filter (· ≠ d)
    resendOrder := (s.sch L).resendOrder.filter (· ≠ d)
    outstanding := (s.sch L).outstanding.filter (· ≠ d)
    lineRecord := dropFromLine d (s.sch L).lineRecord }

/-- An outbound message ends: it leaves the scheduler, its chain is returned and its descriptor is freed (R159). -/
def endOutbound (L : Link) (d : DescNo) (s : State) : State := freeMessage d (leaveScheduler L d s)

/-- The tag of a message as its notices carry it. -/
def tagOf (x : Descriptor) : Tag := x.tag.getD 0

/-- A message ends as done: with report done on a TX_DONE notice is recorded, and then the message is freed (R159). -/
def finishDone (L : Link) (d : DescNo) (s : State) : State :=
  endOutbound L d
    (if (s.sch L).reportDone then
      recordNotice ⟨L, s.now, .txDone (s.desc d).peer (tagOf (s.desc d)) (s.desc d).reference (s.desc d).attempts⟩ s
    else s)

/-- A message ends as failed: a TX_FAILED notice is recorded, and then the message is freed (R160). -/
def finishFailed (L : Link) (d : DescNo) (reason : FailReason) (s : State) : State :=
  endOutbound L d
    (recordNotice
      ⟨L, s.now, .txFailed (s.desc d).peer (tagOf (s.desc d)) (s.desc d).reference (s.desc d).attempts reason⟩ s)

/-- The outstanding message of link `L` that a frame from `origin` with `tag` matches (R152). -/
def State.matching (s : State) (L : Link) (origin : Byte) (tag : Tag) : Option DescNo :=
  (s.sch L).outstanding.find? fun d => (s.desc d).peer == origin && (s.desc d).tag == some tag

/-- The scheduler takes an ACK (R153, R155). -/
def takeAck (L : Link) (origin : Byte) (tag : Tag) (s : State) : State :=
  match s.matching L origin tag with
  | some d => finishDone L d s
  | none => count L .stray s

/-- The scheduler takes the ACK that link `L` has handed over (R152). -/
def takeHandedAck (L : Link) (s : State) : State :=
  match (s.port L).handedOver with
  | some (.ack origin tag) => takeAck L origin tag (clearHandedOver L s)
  | _ => s

/-- ACK_RECEIVED (R152, R153). -/
def execAckReceived (L : Link) (s : State) : Host.Outcome State Fault Refusal := .next (takeHandedAck L s)

/-- The failure reason of a refused message (R154). -/
def refusedReason : RefuseReason → FailReason
  | .noContext => .refusedNoContext
  | .noBlock => .refusedNoBlock

/-- The message waits out a refuse backoff (R154). -/
def enterBackoff (L : Link) (d : DescNo) (s : State) : State :=
  (s.setDesc d { s.desc d with
      state := .backoff
      position := 0
      deadline := some (.armed (s.deadlineAfter (s.sch L).refuseBackoff)) }).setSch L
    { s.sch L with lineRecord := dropFromLine d (s.sch L).lineRecord }

/-- The scheduler takes a REFUSE (R154, R155). -/
def takeRefuse (L : Link) (origin : Byte) (tag : Tag) (reason : RefuseReason) (s : State) : State :=
  match s.matching L origin tag with
  | some d =>
    if (s.desc d).state = .sending ∨ (s.desc d).state = .awaitAck then
      if (s.desc d).attempts < (s.sch L).attemptLimit then enterBackoff L d s
      else finishFailed L d (refusedReason reason) s
    else count L .stray s
  | none => count L .stray s

/-- The scheduler takes the REFUSE that link `L` has handed over (R152). -/
def takeHandedRefuse (L : Link) (s : State) : State :=
  match (s.port L).handedOver with
  | some (.refuse origin tag reason) => takeRefuse L origin tag reason (clearHandedOver L s)
  | _ => s

/-- REFUSE_RECEIVED (R152, R154). -/
def execRefuseReceived (L : Link) (s : State) : Host.Outcome State Fault Refusal := .next (takeHandedRefuse L s)

/-! ### Timers (R156, R157) -/

/-- The message becomes RESEND at position 0 without a deadline, at the tail of the resend order (R156, R157, R163). -/
def enterResend (L : Link) (d : DescNo) (s : State) : State :=
  (s.setDesc d { s.desc d with state := .resend, position := 0, deadline := none }).setSch L
    { s.sch L with
      resendOrder := (s.sch L).resendOrder ++ [d]
      lineRecord := dropFromLine d (s.sch L).lineRecord }

/-- The acknowledgement wait of a message expires (R156). -/
def expireWait (d : DescNo) (s : State) : State :=
  let L := (s.desc d).link
  if (s.desc d).attempts < (s.sch L).attemptLimit then enterResend L d s else finishFailed L d .noAck s

/-- The scheduler takes the expiry of an AWAIT_ACK message, with now equal to its deadline (R28, R156). -/
def ackWaitExpiry (d : DescNo) (s : State) : State := if s.waitDue .awaitAck d then expireWait d s else s

/-- ACKNOWLEDGEMENT_WAIT_EXPIRY (R28, R156). -/
def execAcknowledgementWaitExpiry (d : DescNo) (s : State) : Host.Outcome State Fault Refusal :=
  .next (ackWaitExpiry d s)

/-- The scheduler takes the expiry of a BACKOFF message, with now equal to its deadline (R28, R157). -/
def backoffExpiry (d : DescNo) (s : State) : State :=
  if s.waitDue .backoff d then enterResend (s.desc d).link d s else s

/-- REFUSE_BACKOFF_EXPIRY (R28, R157). -/
def execRefuseBackoffExpiry (d : DescNo) (s : State) : Host.Outcome State Fault Refusal := .next (backoffExpiry d s)

/-! ### The offer and the tag (R147 to R149) -/

/-- The data frame that the scheduler offers: the message, and the case of R147 that formed it. -/
inductive Offer where
  | sending (d : DescNo)
  | resend (d : DescNo)
  | queued (d : DescNo)
  deriving DecidableEq, Repr

/-- The SENDING message of link `L`, when there is one. -/
def State.sendingOf (s : State) (L : Link) : Option DescNo :=
  (s.sch L).outstanding.find? fun d => (s.desc d).state == .sending

/-- The offer of link `L` (R147). -/
def State.offer (s : State) (L : Link) : Option Offer :=
  match s.sendingOf L with
  | some d => some (.sending d)
  | none =>
    match (s.sch L).resendOrder with
    | d :: _ => some (.resend d)
    | [] =>
      match (s.sch L).outboundQueue with
      | d :: _ =>
        if (s.sch L).outstanding.length < (s.sch L).outstandingLimit then some (.queued d) else none
      | [] => none

/-- The tags that the outstanding messages of link `L` hold. -/
def State.tagsInUse (s : State) (L : Link) : List Tag := (s.sch L).outstanding.filterMap fun d => (s.desc d).tag

/-- The first tag from `t` on, counting on from 63 to 0, that is not in use; at most `fuel` tags are passed over. -/
def firstFreeTag (inUse : List Tag) : Nat → Tag → Tag
  | 0, t => t
  | fuel + 1, t => if t ∈ inUse then firstFreeTag inUse fuel (t + 1) else t

/-- The tag given to a message of link `L` that begins its first attempt (R149). -/
def State.tagGiven (s : State) (L : Link) : Tag := firstFreeTag (s.tagsInUse L) 63 (s.sch L).nextTag

/-- The line record is set to the message and the fragment of the frame (R148). -/
def setLine (L : Link) (d : DescNo) (n : Nat) (s : State) : State :=
  s.setSch L { s.sch L with lineRecord := some ⟨n, some d⟩ }

/-- A RESEND message begins its next attempt (case 2 of R148). -/
def beginResend (L : Link) (d : DescNo) (s : State) : State :=
  (s.setDesc d { s.desc d with state := .sending, position := 0, attempts := (s.desc d).attempts + 1 }).setSch L
    { s.sch L with resendOrder := (s.sch L).resendOrder.tail }

/-- A QUEUED message is given its tag and begins its first attempt (case 3 of R148, R149). -/
def beginQueued (L : Link) (d : DescNo) (s : State) : State :=
  (s.setDesc d { s.desc d with state := .sending, position := 0, tag := some (s.tagGiven L), attempts := 1 }).setSch L
    { s.sch L with
      outboundQueue := (s.sch L).outboundQueue.tail
      outstanding := (s.sch L).outstanding ++ [d]
      nextTag := s.tagGiven L + 1 }

/-- The message of an offer. -/
def Offer.descriptor : Offer → DescNo
  | .sending d => d
  | .resend d => d
  | .queued d => d

/-- The scheduler's part of a frame start that takes the offer (R148). -/
def takeOffer (L : Link) (o : Offer) (s : State) : State :=
  let s := match o with
    | .sending _ => s
    | .resend d => beginResend L d s
    | .queued d => beginQueued L d s
  setLine L o.descriptor (s.desc o.descriptor).position s

/-! ### Frame end (R151) -/

/-- The last fragment of a unicast attempt has ended: the message waits for its acknowledgement (R151). -/
def enterAwaitAck (L : Link) (d : DescNo) (s : State) : State :=
  s.setDesc d { s.desc d with
    state := .awaitAck
    position := 0
    deadline := some (.armed (s.deadlineAfter (s.sch L).ackWait)) }

/-- The scheduler takes the report that fragment `n` of message `d` has left the line (R151). -/
def fragmentSent (L : Link) (d : DescNo) (n : Nat) (s : State) : State :=
  if n + 1 < (s.desc d).fragmentCount.getD 1 then s.setDesc d { s.desc d with position := n + 1 }
  else if (s.desc d).broadcast then finishDone L d s
  else enterAwaitAck L d s

/-- The line record becomes absent (R151). -/
def clearLine (L : Link) (s : State) : State := s.setSch L { s.sch L with lineRecord := none }

/-- The scheduler's part of a frame end: the line record is consulted when it names a SENDING message, and becomes
absent in every case (R151). -/
def reportFrameEnd (L : Link) (s : State) : State :=
  match (s.sch L).lineRecord with
  | some ⟨n, some d⟩ =>
    clearLine L (if (s.desc d).state = .sending then fragmentSent L d n s else s)
  | _ => clearLine L s

/-! ### Entry to OFF and LINK START (R163 to R165) -/

/-- A message still SENDING as its link enters OFF becomes RESEND, or fails at its limit (R163). -/
def stopSending (L : Link) (s : State) : State :=
  match s.sendingOf L with
  | some d =>
    if (s.desc d).attempts < (s.sch L).attemptLimit then enterResend L d s
    else finishFailed L d .stoppedAtLimit s
  | none => s

/-- The deadline of a message of link `L` is suspended (R27, R164; log entry 20). -/
def suspendedDescriptor (L : Link) (x : Descriptor) : Descriptor :=
  if x.link = L ∧ (x.state = .awaitAck ∨ x.state = .backoff) then
    { x with deadline := x.deadline.map fun
        | .armed t => .suspended t
        | .suspended t => .suspended t }
  else x

/-- Every deadline of the link's waiting messages is suspended (R164). -/
def suspendDeadlines (L : Link) (s : State) : State :=
  { s with table := { s.table with descriptors := s.table.descriptors.mapAll (suspendedDescriptor L) } }

/-- A message of link `L` that waits gets a fresh deadline of a full interval (R165). -/
def rearmedDescriptor (L : Link) (ack backoff : Tick) (x : Descriptor) : Descriptor :=
  if x.link = L ∧ x.state = .awaitAck then { x with deadline := some (.armed ack) }
  else if x.link = L ∧ x.state = .backoff then { x with deadline := some (.armed backoff) }
  else x

/-- Fresh deadlines for every AWAIT_ACK and BACKOFF message of the link (R165). -/
def rearmDeadlines (L : Link) (s : State) : State :=
  { s with table := { s.table with
      descriptors := s.table.descriptors.mapAll
        (rearmedDescriptor L (s.deadlineAfter (s.sch L).ackWait) (s.deadlineAfter (s.sch L).refuseBackoff)) } }

/-! ### OUT WITHDRAW (R161) -/

/-- The oldest message of link `L` with a reference: the outstanding set first and then the outbound queue. -/
def State.withReference (s : State) (L : Link) (reference : Byte) : Option DescNo :=
  ((s.sch L).outstanding ++ (s.sch L).outboundQueue).find? fun d => (s.desc d).reference == reference

/-- OUT WITHDRAW judged by its own rule (R161). -/
def outWithdrawBody (s : State) : State × CommandOutcome :=
  match s.linkParameter with
  | none => (s, .badParam)
  | some L =>
    match s.withReference L s.host.p2 with
    | none => (s, .none)
    | some d => if (s.desc d).state = .sending then (s, .busy) else (endOutbound L d s, .ok)

/-- OUT_WITHDRAW, code 28h (R161, R182). -/
def execOutWithdraw (s : State) : Host.Outcome State Fault Refusal := .next (issueCommand 0x28 outWithdrawBody s)

end Sys2Proof.Machine
end

