-- ==== Sys2Proof/Machine/Transmitter.lean ====
section
/-! DEFINITION. The transmitters of the link ports: frame start, frame end, the gap, the entry of a stopping link to
OFF, and what a reference period does to a transmitter (sections 1.2, 1.5 and 1.6). -/

namespace Sys2Proof.Machine

/-- The transmitter of link `L` begins to send the frame built in its buffer (R15). -/
def beginFrame (L : Link) (f : Frame) (s : State) : State :=
  s.setPort L { s.port L with transmitter := .active, txPeriods := 0, txBuffer := f.bytes }

/-- The final flag of fragment `n` of a message: set when it is the last one (R148). -/
def isFinal (x : Descriptor) (n : Nat) : Bool := n + 1 == x.fragmentCount.getD 1

/-- The payload of fragment `n` of a message: 64 bytes of its block, or what is left for the final fragment (R15,
R148). A message of length 0 has no block and an empty payload; so has a missing block (log entry 21). -/
def fragmentPayload (s : State) (x : Descriptor) (n : Nat) : List Byte :=
  match x.chain[n]? with
  | some b =>
    s.blockBytes b
      (if isFinal x n then x.length - Config.blockSize * (x.fragmentCount.getD 1 - 1) else Config.blockSize)
  | none => []

/-- The frame of a message's fragment at its present position (R148). -/
def offeredFrame (L : Link) (d : DescNo) (s : State) : Frame :=
  dataFrame (s.port L).stationAddress (s.desc d).peer (tagOf (s.desc d)) (s.desc d).position
    (isFinal (s.desc d) (s.desc d).position) (fragmentPayload s (s.desc d) (s.desc d).position)

/-- The transmitter takes the oldest control request (R101). -/
def startControl (L : Link) (r : Request) (rest : List Request) (s : State) : State :=
  beginFrame L (controlFrame (s.port L).stationAddress r) (s.setPort L { s.port L with controlQueue := rest })

/-- The transmitter takes the scheduler's offer (R148). -/
def startData (L : Link) (o : Offer) (s : State) : State :=
  beginFrame L (offeredFrame L o.descriptor (takeOffer L o s)) (takeOffer L o s)

/-- A frame start: a control request before a data frame, and nothing when there is neither (R14). -/
def startFrame (L : Link) (s : State) : State :=
  match (s.port L).controlQueue with
  | r :: rest => startControl L r rest s
  | [] =>
    match s.offer L with
    | some o => startData L o s
    | none => s

/-- Frame start is taken when the link is in RUN and the transmitter is IDLE (R14). -/
def takeFrameStart (L : Link) (s : State) : State :=
  if (s.port L).state = .run ∧ (s.port L).transmitter = .idle then startFrame L s else s

/-- FRAME_START (R14). -/
def execFrameStart (L : Link) (s : State) : Host.Outcome State Fault Refusal := .next (takeFrameStart L s)

/-- The transmitter enters GAP and begins to measure it; no frame is in its buffer (R14; log entry 11). -/
def enterGap (L : Link) (s : State) : State :=
  s.setPort L { s.port L with transmitter := .gap, txPeriods := 0, txBuffer := [] }

/-- A link in STOPPING enters OFF: contexts abandoned, control queue emptied, a SENDING message stopped, deadlines
suspended, and LINK_STOPPED recorded last (R20; the order of the returns is DEDUCED, log entry 17). -/
def enterOff (L : Link) (s : State) : State :=
  let entries := s.entriesOfLink L
  let s := abandonContexts entries s
  let s := s.setPort L { s.port L with state := .off, controlQueue := [] }
  let s := stopSending L s
  let s := suspendDeadlines L s
  recordNotice ⟨L, s.now, .linkStopped entries.length⟩ s

/-- The effects of a frame end: the report to the scheduler, and then the entry to OFF of a stopping link (R16,
R20). -/
def endFrame (L : Link) (s : State) : State :=
  let s := reportFrameEnd L (enterGap L s)
  if (s.port L).state = .stopping then enterOff L s else s

/-- FRAME_END: taken while a frame is on the line (R16). -/
def execFrameEnd (L : Link) (s : State) : Host.Outcome State Fault Refusal :=
  .next (if (s.port L).transmitter = .active then endFrame L s else s)

/-- The transmitter of link `L` becomes IDLE (R14). -/
def enterIdle (L : Link) (s : State) : State :=
  s.setPort L { s.port L with transmitter := .idle, txPeriods := 0 }

/-- TX_GAP_END: two character times of GAP have passed (R14). Held in reset, a transmitter stays in GAP (R22, R188;
log entry 14). -/
def execTxGapEnd (L : Link) (s : State) : Host.Outcome State Fault Refusal :=
  .next (if (s.port L).transmitter = .gap ∧ s.host.resetLow = false then enterIdle L s else s)

/-- A transmitter in GAP measures one reference period, and is IDLE when two character times have passed (R3, R14; log
entry 13). -/
def measureGap (p : LinkPort) : LinkPort :=
  if p.txPeriods + 1 < Config.gapLength p.lineRate then { p with txPeriods := p.txPeriods + 1 }
  else { p with transmitter := .idle, txPeriods := 0 }

/-- A transmitter in ACTIVE sends for one reference period; frame end is taken when the stop bit of the last check byte
has left the line (R2, R3, R16). -/
def sendPeriod (L : Link) (s : State) : State :=
  if (s.port L).txPeriods + 1 < framePeriods (s.port L).lineRate (s.port L).txBuffer then
    s.setPort L { s.port L with txPeriods := (s.port L).txPeriods + 1 }
  else endFrame L s

/-- One reference period of the transmitter of link `L` (R14). In IDLE, frame start is taken as soon as its conditions
hold (log entry 12). -/
def transmitterPeriod (L : Link) (s : State) : State :=
  match (s.port L).transmitter with
  | .active => sendPeriod L s
  | .gap => s.setPort L (measureGap (s.port L))
  | .idle => takeFrameStart L s

end Sys2Proof.Machine
end

