-- ==== Sys2Proof/Machine/LinkCommands.lean ====
section
/-! DEFINITION. LINK START, LINK STOP, LINK RESET and COUNTERS CLEAR (section 1.6, chapter 10). -/

namespace Sys2Proof.Machine

/-- A link enters RUN with its receiver in SETTLING and fresh deadlines for its waiting messages (R19, R165). -/
def startLink (L : Link) (s : State) : State :=
  rearmDeadlines L (s.setPort L { s.port L with
    state := .run, receiver := .settling, rxBuffer := [], idleLeft := Config.gapSamples })

/-- LINK START judged by its own rule (R18, R19). -/
def linkStartBody (s : State) : State × CommandOutcome :=
  match s.linkParameter with
  | none => (s, .badParam)
  | some L =>
    match (s.port L).state with
    | .off => if (s.port L).stationAddress = 0 then (s, .badParam) else (startLink L s, .ok)
    | .run | .stopping => (s, .state)

/-- LINK_START, code 01h (R182). -/
def execLinkStart (s : State) : Host.Outcome State Fault Refusal := .next (issueCommand 0x01 linkStartBody s)

/-- The receiver is disabled, and what it is receiving or has handed over is discarded uncounted (R7, R20, R21, R66,
R152). -/
def disableReceiver (L : Link) (s : State) : State :=
  s.setPort L { s.port L with receiver := .disabled, rxBuffer := [], handedOver := none }

/-- A link in RUN enters STOPPING, and OFF at once when no frame is on its line (R20). -/
def stopLink (L : Link) (s : State) : State :=
  let s := disableReceiver L s
  let s := s.setPort L { s.port L with state := .stopping }
  if (s.port L).transmitter = .active then s else enterOff L s

/-- LINK STOP judged by its own rule (R18, R20). -/
def linkStopBody (s : State) : State × CommandOutcome :=
  match s.linkParameter with
  | none => (s, .badParam)
  | some L =>
    match (s.port L).state with
    | .run => (stopLink L s, .ok)
    | .off | .stopping => (s, .state)

/-- LINK_STOP, code 02h (R182). -/
def execLinkStop (s : State) : Host.Outcome State Fault Refusal := .next (issueCommand 0x02 linkStopBody s)

/-- The eight counters at 0 and the loss indicator clear (R176, R177). -/
def clearCounters (L : Link) (s : State) : State :=
  s.setPort L { s.port L with counters := .zero, lossIndicator := false }

/-- The outstanding messages of a link in ascending order of descriptor number (R44, R166). -/
def State.outstandingAscending (s : State) (L : Link) : List DescNo :=
  (List.finRange 96).filter fun d => decide (d ∈ (s.sch L).outstanding)

/-- The scheduler of a link after LINK RESET: records empty, next tag 0, settings kept (R166). -/
def emptiedScheduler (x : Scheduler) : Scheduler :=
  { x with outboundQueue := [], resendOrder := [], outstanding := [], lineRecord := none, nextTag := 0 }

/-- The link port's own part of LINK RESET (R21, R177). -/
def resetPort (p : LinkPort) : LinkPort :=
  { p with
    state := .off
    receiver := .disabled
    rxBuffer := []
    handedOver := none
    transmitter := if p.transmitter = .active then .gap else p.transmitter
    txPeriods := if p.transmitter = .active then 0 else p.txPeriods
    txBuffer := []
    controlQueue := []
    counters := .zero
    lossIndicator := false }

/-- LINK RESET: contexts, ready messages, queued messages and outstanding messages are freed in this order, the rest of
the link is cleared, and LINK_RESET is recorded last (R21, R44, R60, R87, R166). -/
def resetLink (L : Link) (s : State) : State :=
  let entries := s.entriesOfLink L
  let readyMessages := s.ready L
  let queued := (s.sch L).outboundQueue
  let outstanding := s.outstandingAscending L
  let outbound := (s.sch L).outboundQueue.length + (s.sch L).outstanding.length
  let s := abandonContexts entries s
  let s := s.setHistory L []
  let s := (freeMessages readyMessages s).setReady L []
  let s := freeMessages outstanding (freeMessages queued s)
  let s := s.setSch L (emptiedScheduler (s.sch L))
  let s := s.setPort L (resetPort (s.port L))
  recordNotice ⟨L, s.now, .linkReset entries.length readyMessages.length outbound⟩ s

/-- LINK RESET judged by its own rule (R18, R21). -/
def linkResetBody (s : State) : State × CommandOutcome :=
  match s.linkParameter with
  | none => (s, .badParam)
  | some L => (resetLink L s, .ok)

/-- LINK_RESET, code 03h (R182). -/
def execLinkReset (s : State) : Host.Outcome State Fault Refusal := .next (issueCommand 0x03 linkResetBody s)

/-- COUNTERS CLEAR judged by its own rule (R176). -/
def countersClearBody (s : State) : State × CommandOutcome :=
  match s.linkParameter with
  | none => (s, .badParam)
  | some L => (clearCounters L s, .ok)

/-- COUNTERS_CLEAR, code 31h (R182). -/
def execCountersClear (s : State) : Host.Outcome State Fault Refusal := .next (issueCommand 0x31 countersClearBody s)

end Sys2Proof.Machine
end

