-- ==== Sys2Proof/Machine/Composing.lean ====
section
/-! DEFINITION. The compose unit: COMPOSE OPEN, SUBMIT and CANCEL, and the compose data port (chapter 8). -/

namespace Sys2Proof.Machine

/-- The record that COMPOSE OPEN claims a descriptor with (R50, R132). -/
def composingRecord (L : Link) (destination reference : Byte) : Descriptor :=
  { Descriptor.cleared with
    state := .composing
    direction := some .outbound
    link := L
    peer := destination
    broadcast := destination == Config.allStations
    reference := reference }

/-- COMPOSE OPEN judged by its own rule, in the order of R131 (R131, R132). -/
def composeOpenBody (s : State) : State × CommandOutcome :=
  if s.compose.descriptor.isSome then (s, .busy)
  else
    match s.linkParameter with
    | none => (s, .badParam)
    | some L =>
      if s.host.p1 = 0 ∨ s.host.p1.toNat = (s.port L).stationAddress then (s, .badParam)
      else
        match claimDescriptor (composingRecord L s.host.p1 s.host.p2) s with
        | none => (s, .noResource)
        | some (d, s₁) =>
          ({ s₁ with compose := { s₁.compose with
              descriptor := some d, writeCount := 0, stalled := false, overlong := false } }, .ok)

/-- COMPOSE_OPEN, code 20h (R182). -/
def execComposeOpen (s : State) : Host.Outcome State Fault Refusal := .next (issueCommand 0x20 composeOpenBody s)

/-- The fragment count of a message of the given length (R138). -/
def fragmentCountOf (length : Nat) : Nat := if length = 0 then 1 else (length + 63) / 64

/-- The compose descriptor is QUEUED at the tail of its link's outbound queue, and the context closes (R138). -/
def submitMessage (d : DescNo) (s : State) : State :=
  let L := (s.desc d).link
  let s := s.setDesc d { s.desc d with state := .queued, fragmentCount := some (fragmentCountOf (s.desc d).length) }
  let s := s.setSch L { s.sch L with outboundQueue := (s.sch L).outboundQueue ++ [d] }
  { s with compose := { s.compose with descriptor := none, submitted := d } }

/-- COMPOSE SUBMIT judged by its own rule (R138). -/
def composeSubmitBody (s : State) : State × CommandOutcome :=
  match s.compose.descriptor with
  | none => (s, .state)
  | some d => (submitMessage d s, .ok)

/-- COMPOSE_SUBMIT, code 21h (R182). -/
def execComposeSubmit (s : State) : Host.Outcome State Fault Refusal := .next (issueCommand 0x21 composeSubmitBody s)

/-- COMPOSE CANCEL judged by its own rule (R140). -/
def composeCancelBody (s : State) : State × CommandOutcome :=
  match s.compose.descriptor with
  | none => (s, .state)
  | some d =>
    let s := freeMessage d s
    ({ s with compose := { s.compose with descriptor := none } }, .ok)

/-- COMPOSE_CANCEL, code 22h (R182). -/
def execComposeCancel (s : State) : Host.Outcome State Fault Refusal := .next (issueCommand 0x22 composeCancelBody s)

/-! ### The compose data port (R133 to R135) -/

/-- The block that an accepted byte is stored in: a newly claimed one at the end of the chain when the length is a
multiple of 64, and otherwise the last block of the chain (R133). -/
def composeBlock (d : DescNo) (s : State) : Option (BlockNo × State) :=
  if (s.desc d).length % Config.blockSize = 0 then
    (composeClaim s).map fun (b, s₁) => (b, s₁.setDesc d { s₁.desc d with chain := (s₁.desc d).chain ++ [b] })
  else (s.desc d).chain.getLast?.map fun b => (b, s)

/-- A byte is accepted: stored, counted in the length and the write count, and COMPOSE_STALLED cleared (R133). -/
def acceptByte (d : DescNo) (b : BlockNo) (v : Byte) (s : State) : State :=
  let s := appendByte b v s
  let s := s.setDesc d { s.desc d with length := (s.desc d).length + 1 }
  { s with compose := { s.compose with writeCount := s.compose.writeCount + 1, stalled := false } }

/-- A write of the compose data port in READY (R133 to R135). -/
def writeComposeByte (v : Byte) (s : State) : State :=
  match s.compose.descriptor with
  | none => { s with compose := { s.compose with overlong := true } }
  | some d =>
    if Config.maxLength ≤ (s.desc d).length then { s with compose := { s.compose with overlong := true } }
    else
      match composeBlock d s with
      | some (b, s₁) => acceptByte d b v s₁
      | none => { s with compose := { s.compose with stalled := true } }

/-- A write of the compose data port: ignored during initialisation (R135). -/
def writeComposePort (v : Byte) (s : State) : State :=
  match s.host.device with
  | .initialising => s
  | .ready => writeComposeByte v s

/-- COMPOSE_DATA_PORT_WRITE, address 27h (R133 to R135). -/
def execComposeDataPortWrite (v : Byte) (s : State) : Host.Outcome State Fault Refusal :=
  .next (hostWrite (writeComposePort v) s)

/-- A read of the write count low byte copies the remaining bits into the latch (R137). -/
def latchWriteCount (s : State) : State :=
  { s with compose := { s.compose with writeCountLatch := highByte s.compose.writeCount } }

/-- WRITE_COUNT_LOW_READ, address 28h (R137). -/
def execWriteCountLowRead (s : State) : Host.Outcome State Fault Refusal :=
  .next (hostRead (fun s => lowByte s.compose.writeCount) latchWriteCount s)

end Sys2Proof.Machine
end

