-- ==== Sys2Proof/Machine/Service.lean ====
section
/-! DEFINITION. The service context: TAKE, TAKE ANY, RELEASE, REQUEUE, the read data port and the read cursor
(chapter 7). -/

namespace Sys2Proof.Machine

/-- The service context takes an item: its record is set, the cursor is 0 and OVERREAD is cleared (R113). -/
def serveItem (c : ServiceContext) (s : State) : State :=
  { s with arbiter := { s.arbiter with service := c, cursor := 0, overread := false } }

/-- The winner's item is moved into the service context (R55, R114, R115). -/
def takeItem (w : Source × Nat) (s : State) : State :=
  match w.1 with
  | .link L =>
    match s.ready L with
    | d :: rest => serveItem (.message L w.2 d) ((s.setReady L rest).setDesc d { s.desc d with state := .service })
    | [] => s
  | .noticeQueue =>
    match s.notices.records with
    | n :: rest => serveItem (.notice w.2 n) { s with notices := { s.notices with records := rest } }
    | [] => s

/-- TAKE judged by its own rule (R113). -/
def takeBody (s : State) : State × CommandOutcome :=
  if s.arbiter.service ≠ .empty then (s, .busy)
  else
    match s.winner with
    | none => (s, .none)
    | some w => if s.arbiter.threshold < w.2 then (takeItem w s, .ok) else (s, .none)

/-- TAKE, code 10h (R182). -/
def execTake (s : State) : Host.Outcome State Fault Refusal := .next (issueCommand 0x10 takeBody s)

/-- TAKE ANY judged by its own rule (R116). -/
def takeAnyBody (s : State) : State × CommandOutcome :=
  if s.arbiter.service ≠ .empty then (s, .busy)
  else
    match s.winner with
    | none => (s, .none)
    | some w => (takeItem w s, .ok)

/-- TAKE_ANY, code 11h (R182). -/
def execTakeAny (s : State) : Host.Outcome State Fault Refusal := .next (issueCommand 0x11 takeAnyBody s)

/-- The service context enters EMPTY, the cursor is 0 and OVERREAD keeps its value (R118 to R121). -/
def emptyService (s : State) : State := { s with arbiter := { s.arbiter with service := .empty, cursor := 0 } }

/-- RELEASE judged by its own rule (R118, R119). -/
def releaseBody (s : State) : State × CommandOutcome :=
  match s.arbiter.service with
  | .empty => (s, .state)
  | .message _ _ d => (emptyService (freeMessage d s), .ok)
  | .notice _ _ => (emptyService s, .ok)

/-- RELEASE, code 12h (R182). -/
def execRelease (s : State) : Host.Outcome State Fault Refusal := .next (issueCommand 0x12 releaseBody s)

/-- A message goes back to the head of the ready queue of its link (R56, R120). -/
def requeueMessage (d : DescNo) (s : State) : State :=
  (s.setDesc d { s.desc d with state := .ready }).setReady (s.desc d).link (d :: s.ready (s.desc d).link)

/-- REQUEUE judged by its own rule (R120, R121). -/
def requeueBody (s : State) : State × CommandOutcome :=
  match s.arbiter.service with
  | .empty => (s, .state)
  | .message _ _ d => (emptyService (requeueMessage d s), .ok)
  | .notice _ n =>
    if s.notices.records.length < Config.noticeCapacity then
      (emptyService { s with notices := { s.notices with records := n :: s.notices.records } }, .ok)
    else (s, .noRoom)

/-- REQUEUE, code 13h (R182). -/
def execRequeue (s : State) : Host.Outcome State Fault Refusal := .next (issueCommand 0x13 requeueBody s)

/-! ### The read data port and the read cursor (section 7.8) -/

/-- The descriptor of the message in the service context. -/
def State.serviceDescriptor (s : State) : Option DescNo :=
  match s.arbiter.service with
  | .message _ _ d => some d
  | .empty => none
  | .notice _ _ => none

/-- The length of the held message, and 0 without one (R126). -/
def State.serviceLength (s : State) : Nat := (s.serviceDescriptor.map fun d => (s.desc d).length).getD 0

/-- The byte at position `p` of a message: in the block at chain position p / 64, at offset p mod 64 (R124). -/
def State.messageByte (s : State) (x : Descriptor) (p : Nat) : Byte :=
  match x.chain[p / Config.blockSize]? with
  | some b => s.blockByte b (p % Config.blockSize)
  | none => 0

/-- The byte that a read of the read data port returns (R124, R125). -/
def State.dataPort (s : State) : Byte :=
  match s.serviceDescriptor with
  | some d => if s.arbiter.cursor < (s.desc d).length then s.messageByte (s.desc d) s.arbiter.cursor else 0
  | none => 0

/-- What a read of the read data port does: it advances the cursor, or at the end of the message or without one sets
OVERREAD (R124, R125). During initialisation it does neither (R125). -/
def readDataPort (s : State) : State :=
  match s.host.device with
  | .initialising => s
  | .ready =>
    if s.arbiter.cursor < s.serviceLength then
      { s with arbiter := { s.arbiter with cursor := s.arbiter.cursor + 1 } }
    else { s with arbiter := { s.arbiter with overread := true } }

/-- READ_DATA_PORT_READ, address 24h (R124, R125). -/
def execReadDataPortRead (s : State) : Host.Outcome State Fault Refusal :=
  .next (hostRead State.dataPort readDataPort s)

/-- A write of the cursor low byte is held in the cursor write latch (R126). -/
def writeCursorLow (v : Byte) (s : State) : State := { s with arbiter := { s.arbiter with cursorWriteLatch := v } }

/-- READ_CURSOR_LOW_WRITE, address 25h (R126). -/
def execReadCursorLowWrite (v : Byte) (s : State) : Host.Outcome State Fault Refusal :=
  .next (hostWrite (writeCursorLow v) s)

/-- A write of the cursor high byte sets the cursor, up to the length of the held message; a value above it sets
OVERREAD. During initialisation it changes nothing (R126). -/
def writeCursorHigh (v : Byte) (s : State) : State :=
  match s.host.device with
  | .initialising => s
  | .ready =>
    if ofBytes v s.arbiter.cursorWriteLatch ≤ s.serviceLength then
      { s with arbiter := { s.arbiter with cursor := ofBytes v s.arbiter.cursorWriteLatch } }
    else { s with arbiter := { s.arbiter with cursor := s.serviceLength, overread := true } }

/-- READ_CURSOR_HIGH_WRITE, address 26h (R126). -/
def execReadCursorHighWrite (v : Byte) (s : State) : Host.Outcome State Fault Refusal :=
  .next (hostWrite (writeCursorHigh v) s)

/-- A read of the cursor low byte copies the high bits into the cursor read latch (R127). -/
def latchCursor (s : State) : State :=
  { s with arbiter := { s.arbiter with cursorReadLatch := highByte s.arbiter.cursor } }

/-- READ_CURSOR_LOW_READ, address 25h (R127). -/
def execReadCursorLowRead (s : State) : Host.Outcome State Fault Refusal :=
  .next (hostRead (fun s => lowByte s.arbiter.cursor) latchCursor s)

end Sys2Proof.Machine
end

