-- ==== Sys2Proof/Machine/Operands.lean ====
section
/-! DEFINITION. The register window as operands: what each address reads as, and the settings with their ranges and
write conditions (sections 11.1, 11.3, 11.5 and 11.6). -/

namespace Sys2Proof.Machine

/-! ### Codes shown in the window -/

/-- The code of a command outcome (R183). -/
def CommandOutcome.code : CommandOutcome → Byte
  | .ok => 0
  | .none => 1
  | .busy => 2
  | .state => 3
  | .badParam => 4
  | .noResource => 5
  | .noRoom => 6
  | .notReady => 7
  | .unknown => 8

/-- The code of a link state at address 40h. -/
def LinkState.code : LinkState → Byte
  | .off => 0
  | .run => 1
  | .stopping => 2

/-- The code of a TX_FAILED reason (section 11.6). -/
def FailReason.code : FailReason → Nat
  | .noAck => 1
  | .refusedNoContext => 2
  | .refusedNoBlock => 3
  | .stoppedAtLimit => 4

/-- An on/off setting as it is read: 0 off, 1 on. -/
def onOff (b : Bool) : Byte := if b then 1 else 0

/-! ### The service window (R122, R123) -/

/-- The fields of the service window. -/
structure ServiceWindow where
  contextState : Nat := 0
  source : Nat := 0
  bidAtTake : Nat := 0
  noticeKind : Nat := 0
  link : Nat := 0
  peer : Byte := 0
  broadcast : Bool := false
  tag : Nat := 0
  length : Nat := 0
  fragmentCount : Nat := 0
  stamp : Nat := 0
  age : Nat := 0
  reference : Byte := 0
  attempts : Nat := 0
  reason : Nat := 0
  firstCount : Nat := 0
  secondCount : Nat := 0
  thirdCount : Nat := 0
  deriving DecidableEq, Repr

/-- What the service window shows of a held message (R122). -/
def messageWindow (source : Link) (bid : Nat) (x : Descriptor) : ServiceWindow where
  contextState := 1
  source := source.val
  bidAtTake := bid
  link := x.link.val
  peer := x.peer
  broadcast := x.broadcast
  tag := (x.tag.map Fin.val).getD 0
  length := x.length
  fragmentCount := x.fragmentCount.getD 0
  stamp := (x.stamp.map BitVec.toNat).getD 0
  age := x.age

/-- What the service window shows of a held notice (R123); fields that the kind does not carry read 0. -/
def noticeWindow (bid : Nat) (n : Notice) : ServiceWindow :=
  let w : ServiceWindow :=
    { contextState := 2, source := 4, bidAtTake := bid, link := n.link.val, stamp := n.stamp.toNat }
  match n.body with
  | .txDone peer tag reference attempts =>
    { w with noticeKind := 1, peer := peer, tag := tag.val, reference := reference, attempts := attempts }
  | .txFailed peer tag reference attempts reason =>
    { w with noticeKind := 2, peer := peer, tag := tag.val, reference := reference, attempts := attempts,
             reason := reason.code }
  | .rxExpired peer tag received => { w with noticeKind := 3, peer := peer, tag := tag.val, firstCount := received }
  | .rxMalformed peer tag received => { w with noticeKind := 4, peer := peer, tag := tag.val, firstCount := received }
  | .linkStopped contexts => { w with noticeKind := 5, firstCount := contexts }
  | .linkReset contexts readyMessages outbound =>
    { w with noticeKind := 6, firstCount := contexts, secondCount := readyMessages, thirdCount := outbound }

/-- The service window: all 0 with the service context EMPTY (R123). -/
def State.serviceWindow (s : State) : ServiceWindow :=
  match s.arbiter.service with
  | .empty => {}
  | .message source bid d => messageWindow source bid (s.desc d)
  | .notice bid n => noticeWindow bid n

/-! ### Counts -/

/-- The free count as it is read: 512 during initialisation, although the list is still being built (R34, R45). -/
def State.freeCount (s : State) : Nat :=
  match s.host.device with
  | .initialising => 512
  | .ready => s.pool.freeList.length

/-- The link that link select names (R180). -/
def State.selected (s : State) : Link := s.host.linkSelect

/-! ### What each address reads as (section 11.5) -/

/-- A read of a global address, 00h to 3Fh; unassigned addresses read 00h (R179). -/
def readGlobal (s : State) (a : Nat) : Byte :=
  let w := s.serviceWindow
  match a with
  | 0x00 => s.host.command
  | 0x01 => s.host.outcome.code
  | 0x02 => lowByte s.compose.submitted.val
  | 0x03 => s.globalStatus
  | 0x04 => lowByte s.host.linkSelect.val
  | 0x05 => s.host.p0
  | 0x06 => s.host.p1
  | 0x07 => s.host.p2
  | 0x10 => lowByte w.contextState
  | 0x11 => lowByte w.source
  | 0x12 => lowByte w.bidAtTake
  | 0x13 => lowByte w.noticeKind
  | 0x14 => lowByte w.link
  | 0x15 => w.peer
  | 0x16 => onOff w.broadcast
  | 0x17 => lowByte w.tag
  | 0x18 => lowByte w.length
  | 0x19 => highByte w.length
  | 0x1A => lowByte w.fragmentCount
  | 0x1B => lowByte w.stamp
  | 0x1C => highByte w.stamp
  | 0x1D => lowByte w.age
  | 0x1E => w.reference
  | 0x1F => lowByte w.attempts
  | 0x20 => lowByte w.reason
  | 0x21 => lowByte w.firstCount
  | 0x22 => lowByte w.secondCount
  | 0x23 => lowByte w.thirdCount
  | 0x24 => s.dataPort
  | 0x25 => lowByte s.arbiter.cursor
  | 0x26 => s.arbiter.cursorReadLatch
  | 0x28 => lowByte s.compose.writeCount
  | 0x29 => s.compose.writeCountLatch
  | 0x2A => lowByte s.time.tickCounter.toNat
  | 0x2B => s.time.highLatch
  | 0x2C => lowByte s.time.prescale
  | 0x2D => lowByte s.time.ageStep
  | 0x2E => lowByte s.freeCount
  | 0x2F => s.pool.freeCountLatch
  | 0x30 => lowByte s.freeDescriptors
  | 0x31 => lowByte s.pool.reserve
  | 0x32 => lowByte s.notices.records.length
  | 0x33 => lowByte s.notices.overflow
  | 0x34 => lowByte s.arbiter.noticeWeight
  | 0x35 => lowByte s.arbiter.threshold
  | 0x36 => onOff s.arbiter.attentionEnable
  | 0x37 => lowByte s.leadSource
  | 0x38 => lowByte s.leadBid
  | _ => 0

/-- A read of a link page address, 40h to 7Fh, in the page of link `L`. -/
def readLinkPage (s : State) (L : Link) (a : Nat) : Byte :=
  let k := (s.port L).counters
  match a with
  | 0x40 => (s.port L).state.code
  | 0x41 => lowByte (s.port L).stationAddress
  | 0x42 => onOff (s.port L).acceptBroadcast
  | 0x43 => lowByte (s.port L).lineRate
  | 0x44 => lowByte (s.reasm.quota.look L)
  | 0x45 => lowByte (s.reasm.lifetime.look L)
  | 0x46 => lowByte (s.contextCount L)
  | 0x47 => lowByte (s.pool.ceiling.look L)
  | 0x48 => highByte (s.pool.ceiling.look L)
  | 0x49 => lowByte (s.inboundHold L)
  | 0x4A => s.pool.holdLatch.look L
  | 0x4B => lowByte (s.ready L).length
  | 0x4C => lowByte (s.arbiter.linkWeight.look L)
  | 0x4D => lowByte (s.sch L).outstandingLimit
  | 0x4E => lowByte (s.sch L).attemptLimit
  | 0x4F => lowByte (s.sch L).ackWait
  | 0x50 => lowByte (s.sch L).refuseBackoff
  | 0x51 => onOff (s.sch L).reportDone
  | 0x52 => lowByte (s.sch L).outboundQueue.length
  | 0x53 => lowByte (s.sch L).outstanding.length
  | 0x54 => lowByte (s.sch L).nextTag.val
  | 0x55 => lowByte (s.port L).controlQueue.length
  | 0x56 => lowByte k.checkErrors
  | 0x57 => lowByte k.formatErrors
  | 0x58 => lowByte k.duplicateFragments
  | 0x59 => lowByte k.duplicateMessages
  | 0x5A => lowByte k.noContextDrops
  | 0x5B => lowByte k.noBlockDrops
  | 0x5C => lowByte k.controlLost
  | 0x5D => lowByte k.stray
  | 0x5E => onOff (s.port L).lossIndicator
  | _ => 0

/-- The value of the byte at an address at the moment a read of it is taken (R178, R179;
log entry 16). -/
def windowRead (s : State) (a : BitVec 7) : Byte :=
  if a.toNat < 0x40 then readGlobal s a.toNat else readLinkPage s s.selected a.toNat

/-! ### Settings (R184) -/

/-- The settings that one byte of the window holds; those of the link page are the selected link's. -/
inductive Setting where
  | prescale | ageStep | composeReserve | noticeWeight | threshold | attentionEnable
  | stationAddress | acceptBroadcast | lineRate | contextQuota | reassemblyLifetime | linkWeight
  | outstandingLimit | attemptLimit | ackWait | refuseBackoff | reportDone
  deriving DecidableEq, Repr

/-- The setting at an address, when it holds one (section 11.5). -/
def settingAt (a : Nat) : Option Setting :=
  match a with
  | 0x2C => some .prescale
  | 0x2D => some .ageStep
  | 0x31 => some .composeReserve
  | 0x34 => some .noticeWeight
  | 0x35 => some .threshold
  | 0x36 => some .attentionEnable
  | 0x41 => some .stationAddress
  | 0x42 => some .acceptBroadcast
  | 0x43 => some .lineRate
  | 0x44 => some .contextQuota
  | 0x45 => some .reassemblyLifetime
  | 0x4C => some .linkWeight
  | 0x4D => some .outstandingLimit
  | 0x4E => some .attemptLimit
  | 0x4F => some .ackWait
  | 0x50 => some .refuseBackoff
  | 0x51 => some .reportDone
  | _ => none

/-- The range of a setting (section 11.5). -/
def Setting.inRange : Setting → Nat → Bool
  | .prescale, _ | .ageStep, _ | .threshold, _ => true
  | .composeReserve, v => decide (v ≤ 64)
  | .noticeWeight, v | .linkWeight, v | .lineRate, v => decide (v ≤ 7)
  | .attentionEnable, v | .acceptBroadcast, v | .reportDone, v => decide (v ≤ 1)
  | .stationAddress, v => decide (v ≤ 254)
  | .contextQuota, v => decide (1 ≤ v ∧ v ≤ 32)
  | .reassemblyLifetime, v | .ackWait, v | .refuseBackoff, v => decide (1 ≤ v)
  | .outstandingLimit, v => decide (1 ≤ v ∧ v ≤ 4)
  | .attemptLimit, v => decide (1 ≤ v ∧ v ≤ 15)

/-- The setting can be written only while its link is OFF (R1, R64, R146). -/
def Setting.offOnly : Setting → Bool
  | .stationAddress | .lineRate | .contextQuota | .outstandingLimit | .attemptLimit => true
  | .prescale | .ageStep | .composeReserve | .noticeWeight | .threshold | .attentionEnable | .acceptBroadcast
  | .reassemblyLifetime | .linkWeight | .ackWait | .refuseBackoff | .reportDone => false

/-- An attempt limit of `v` is not below what a message of link `L` already uses (R146). -/
def attemptsAllow (L : Link) (v : Nat) (x : Descriptor) : Bool :=
  if x.link ≠ L then true
  else match x.state with
    | .sending | .awaitAck => decide (x.attempts ≤ v)
    | .backoff | .resend => decide (x.attempts < v)
    | .free | .assembling | .ready | .service | .composing | .queued => true

/-- The value is not below the floor that current use sets (R146, R184). -/
def Setting.aboveFloor (x : Setting) (L : Link) (v : Nat) (s : State) : Bool :=
  match x with
  | .outstandingLimit => decide ((s.sch L).outstanding.length ≤ v)
  | .attemptLimit => (List.finRange 96).all fun d => attemptsAllow L v (s.desc d)
  | .prescale | .ageStep | .composeReserve | .noticeWeight | .threshold | .attentionEnable | .stationAddress
  | .acceptBroadcast | .lineRate | .contextQuota | .reassemblyLifetime | .linkWeight | .ackWait | .refuseBackoff
  | .reportDone => true

/-- A configuration write of a setting is taken (R184). -/
def Setting.accepts (x : Setting) (v : Nat) (s : State) : Bool :=
  x.inRange v && (!x.offOnly || (s.port s.selected).state == .off) && x.aboveFloor s.selected v s

/-- A taken write of the line rate restarts a gap being measured (R3). -/
def setLineRate (v : Nat) (p : LinkPort) : LinkPort := { p with lineRate := v, txPeriods := 0 }

/-- The setting receives a value; a write of the age-step also sets the divider to 0 (R29). -/
def Setting.assign (x : Setting) (v : Nat) (s : State) : State :=
  let L := s.selected
  match x with
  | .prescale => { s with time := { s.time with prescale := v } }
  | .ageStep => { s with time := { s.time with ageStep := v, divider := 0 } }
  | .composeReserve => { s with pool := { s.pool with reserve := v } }
  | .noticeWeight => { s with arbiter := { s.arbiter with noticeWeight := v } }
  | .threshold => { s with arbiter := { s.arbiter with threshold := v } }
  | .attentionEnable => { s with arbiter := { s.arbiter with attentionEnable := v == 1 } }
  | .stationAddress => s.setPort L { s.port L with stationAddress := v }
  | .acceptBroadcast => s.setPort L { s.port L with acceptBroadcast := v == 1 }
  | .lineRate => s.setPort L (setLineRate v (s.port L))
  | .contextQuota => { s with reasm := { s.reasm with quota := s.reasm.quota.put L v } }
  | .reassemblyLifetime => { s with reasm := { s.reasm with lifetime := s.reasm.lifetime.put L v } }
  | .linkWeight => { s with arbiter := { s.arbiter with linkWeight := s.arbiter.linkWeight.put L v } }
  | .outstandingLimit => s.setSch L { s.sch L with outstandingLimit := v }
  | .attemptLimit => s.setSch L { s.sch L with attemptLimit := v }
  | .ackWait => s.setSch L { s.sch L with ackWait := v }
  | .refuseBackoff => s.setSch L { s.sch L with refuseBackoff := v }
  | .reportDone => s.setSch L { s.sch L with reportDone := v == 1 }

/-- A configuration write: taken, or refused with CFG_REJECT set (R184). -/
def writeSetting (x : Setting) (v : Nat) (s : State) : State :=
  if x.accepts v s then x.assign v s else rejectWrite s

/-- The value of a setting, as a number; of a setting of the link page, the given link's. -/
def Setting.value (x : Setting) (L : Link) (s : State) : Nat :=
  match x with
  | .prescale => s.time.prescale
  | .ageStep => s.time.ageStep
  | .composeReserve => s.pool.reserve
  | .noticeWeight => s.arbiter.noticeWeight
  | .threshold => s.arbiter.threshold
  | .attentionEnable => s.arbiter.attentionEnable.toNat
  | .stationAddress => (s.port L).stationAddress
  | .acceptBroadcast => (s.port L).acceptBroadcast.toNat
  | .lineRate => (s.port L).lineRate
  | .contextQuota => s.reasm.quota.look L
  | .reassemblyLifetime => s.reasm.lifetime.look L
  | .linkWeight => s.arbiter.linkWeight.look L
  | .outstandingLimit => (s.sch L).outstandingLimit
  | .attemptLimit => (s.sch L).attemptLimit
  | .ackWait => (s.sch L).ackWait
  | .refuseBackoff => (s.sch L).refuseBackoff
  | .reportDone => (s.sch L).reportDone.toNat

end Sys2Proof.Machine
end

