-- ==== Sys2Proof/Machine/Reset.lean ====
section
/-! DEFINITION. Device reset by the RESET line and by the DEVICE RESET command, and the rebuild of the free list that
ends initialisation (section 11.4). -/

namespace Sys2Proof.Machine

/-- Device reset: every owner's state returns to its reset value; the data bytes of the blocks are not cleared (R22,
R31, R45, R61, R88, R129, R143, R167, R173, R177, R188, R191). The queue of commands and the input pins are the
world's, and the data lines keep what they carry until the next reference period. -/
def deviceReset (resetLow : Bool) (s : State) : State where
  pending := s.pending
  ports := .fill 4 .reset
  time := .reset
  pool := .reset s.pool.blocks
  table := .reset
  reasm := .reset
  sched := .fill 4 .reset
  compose := .reset
  notices := .reset
  arbiter := .reset
  host := .reset resetLow s.host.dataBus
  inputs := s.inputs

/-- CS and RD are low together (R178). -/
def Pins.reads (p : Pins) : Bool := p.cs == .low && p.rd == .low

/-- CS and WR are low together (R178). -/
def Pins.writes (p : Pins) : Bool := p.cs == .low && p.wr == .low

/-- A bus access in progress is not taken (R188; log entry 27). -/
def voidAccess (s : State) : State :=
  { s with inputs := { s.inputs with voided := s.inputs.pins.reads || s.inputs.pins.writes } }

/-- RESET_LINE_LOW: a low level is taken as device reset at once (R188). -/
def execResetLineLow (s : State) : Host.Outcome State Fault Refusal := .next (voidAccess (deviceReset true s))

/-- The RESET line is high again: the time base counts and the rebuild of the free list begins (R31, R45, R188). -/
def raiseResetLine (s : State) : State := { s with host := { s.host with resetLow := false } }

/-- RESET_LINE_HIGH (R188). -/
def execResetLineHigh (s : State) : Host.Outcome State Fault Refusal := .next (raiseResetLine s)

/-- The blocks not yet placed by the rebuild, in ascending order; the free list holds those already placed (R45). -/
def blocksToPlace (placed : List BlockNo) : List BlockNo := (List.finRange 512).drop placed.length

/-- The rebuild is in progress: the part is INITIALISING and the RESET line is high (R45, R190). -/
def State.rebuilding (s : State) : Bool := s.host.device == .initialising && !s.host.resetLow

/-- The rebuild ends: every block is on the free list, and the device state becomes READY (R45, R190; DESIGN CHOICE, log
entry 7). -/
def finishRebuild (s : State) : State :=
  { s with
    pool := { s.pool with freeList := s.pool.freeList ++ blocksToPlace s.pool.freeList }
    host := { s.host with device := .ready } }

/-- FREE_LIST_REBUILT (R45, R190). -/
def execFreeListRebuilt (s : State) : Host.Outcome State Fault Refusal :=
  .next (if s.rebuilding then finishRebuild s else s)

/-- DEVICE_RESET, code 3Fh: NOT_READY during initialisation, and otherwise the whole part is reset in the command
event, the command and outcome registers among it (R182, R189). -/
def commandDeviceReset : State → State :=
  hostWrite fun s =>
    match s.host.device with
    | .initialising => recordOutcome 0x3F .notReady s
    | .ready => deviceReset false s

/-- DEVICE_RESET (R189). -/
def execDeviceReset (s : State) : Host.Outcome State Fault Refusal := .next (commandDeviceReset s)

end Sys2Proof.Machine
end

