-- ==== Sys2Proof/Machine/HostPort.lean ====
section
/-! DEFINITION. The host port: latched reads, link select, the inbound ceiling, configuration writes, and the commands
that no other block owns (chapter 11). -/

namespace Sys2Proof.Machine

/-! ### Latched reads -/

/-- A read of the tick counter's low byte copies its high byte into the latch (R26). -/
def latchTickCounter (s : State) : State :=
  { s with time := { s.time with highLatch := highByte s.time.tickCounter.toNat } }

/-- TICK_COUNTER_LOW_READ, address 2Ah (R26). -/
def execTickCounterLowRead (s : State) : Host.Outcome State Fault Refusal :=
  .next (hostRead (fun s => lowByte s.time.tickCounter.toNat) latchTickCounter s)

/-- A read of the free count's low byte copies the remaining bits into the latch (R34). -/
def latchFreeCount (s : State) : State := { s with pool := { s.pool with freeCountLatch := highByte s.freeCount } }

/-- FREE_COUNT_LOW_READ, address 2Eh (R34). -/
def execFreeCountLowRead (s : State) : Host.Outcome State Fault Refusal :=
  .next (hostRead (fun s => lowByte s.freeCount) latchFreeCount s)

/-- A read of the selected link's inbound hold copies the remaining bits into that link's latch (R36, R180). -/
def latchInboundHold (s : State) : State :=
  { s with pool := { s.pool with
      holdLatch := s.pool.holdLatch.put s.selected (highByte (s.inboundHold s.selected)) } }

/-- INBOUND_HOLD_LOW_READ, address 49h (R36). -/
def execInboundHoldLowRead (s : State) : Host.Outcome State Fault Refusal :=
  .next (hostRead (fun s => lowByte (s.inboundHold s.selected)) latchInboundHold s)

/-! ### Link select and the inbound ceiling -/

/-- A write of link select: 0 to 3 is taken, and a larger value is refused and sets CFG_REJECT (R180). -/
def writeLinkSelect (v : Byte) (s : State) : State :=
  if h : v.toNat < 4 then { s with host := { s.host with linkSelect := ⟨v.toNat, h⟩ } } else rejectWrite s

/-- LINK_SELECT_WRITE, address 04h (R180). -/
def execLinkSelectWrite (v : Byte) (s : State) : Host.Outcome State Fault Refusal :=
  .next (hostWrite (writeLinkSelect v) s)

/-- A write of the ceiling's low byte is stored in the selected link's ceiling write latch (R185). -/
def writeCeilingLow (v : Byte) (s : State) : State :=
  { s with host := { s.host with ceilingLatch := s.host.ceilingLatch.put s.selected v } }

/-- CEILING_LOW_WRITE, address 47h (R185). -/
def execCeilingLowWrite (v : Byte) (s : State) : Host.Outcome State Fault Refusal :=
  .next (hostWrite (writeCeilingLow v) s)

/-- A write of link `L`'s inbound ceiling is taken (R37). -/
def ceilingAccepts (L : Link) (v : Nat) (s : State) : Bool :=
  decide (16 ≤ v ∧ v ≤ 512) && (s.port L).state == .off && decide (s.inboundHold L ≤ v)

/-- A configuration write of link `L`'s inbound ceiling (R37). -/
def writeCeiling (L : Link) (v : Nat) (s : State) : State :=
  if ceilingAccepts L v s then { s with pool := { s.pool with ceiling := s.pool.ceiling.put L v } }
  else rejectWrite s

/-- A write of the ceiling's high byte forms the value with the latch and is judged as a configuration write (R185). -/
def writeCeilingHigh (v : Byte) (s : State) : State :=
  writeCeiling s.selected (ofBytes v (s.host.ceilingLatch.look s.selected)) s

/-- CEILING_HIGH_WRITE, address 48h (R185). -/
def execCeilingHighWrite (v : Byte) (s : State) : Host.Outcome State Fault Refusal :=
  .next (hostWrite (writeCeilingHigh v) s)

/-! ### Commands of the notice queue and of the host port -/

/-- NOTICE CLEAR OVERFLOW judged by its own rule (R172). -/
def noticeClearOverflowBody (s : State) : State × CommandOutcome :=
  ({ s with notices := { s.notices with overflow := 0 } }, .ok)

/-- NOTICE_CLEAR_OVERFLOW, code 30h (R172, R182). -/
def execNoticeClearOverflow (s : State) : Host.Outcome State Fault Refusal :=
  .next (issueCommand 0x30 noticeClearOverflowBody s)

/-- CLEAR FLAGS judged by its own rule (R187). -/
def clearFlagsBody (s : State) : State × CommandOutcome :=
  ({ s with
      host := { s.host with cfgReject := false }
      arbiter := { s.arbiter with overread := false } }, .ok)

/-- CLEAR_FLAGS, code 32h (R182, R187). -/
def execClearFlags (s : State) : Host.Outcome State Fault Refusal := .next (issueCommand 0x32 clearFlagsBody s)

/-- A code that is not in the command table is refused with UNKNOWN (R182). -/
def unknownBody (s : State) : State × CommandOutcome := (s, .unknown)

/-- A write of the command register (R182): the command of the code, or UNKNOWN. -/
def writeCommandRegister (code : Byte) (s : State) : State :=
  match code.toNat with
  | 0x01 => issueCommand code linkStartBody s
  | 0x02 => issueCommand code linkStopBody s
  | 0x03 => issueCommand code linkResetBody s
  | 0x10 => issueCommand code takeBody s
  | 0x11 => issueCommand code takeAnyBody s
  | 0x12 => issueCommand code releaseBody s
  | 0x13 => issueCommand code requeueBody s
  | 0x20 => issueCommand code composeOpenBody s
  | 0x21 => issueCommand code composeSubmitBody s
  | 0x22 => issueCommand code composeCancelBody s
  | 0x28 => issueCommand code outWithdrawBody s
  | 0x30 => issueCommand code noticeClearOverflowBody s
  | 0x31 => issueCommand code countersClearBody s
  | 0x32 => issueCommand code clearFlagsBody s
  | 0x3F => commandDeviceReset s
  | _ => issueCommand code unknownBody s

/-- UNKNOWN_COMMAND: a write of a code that is in no row of the command table. With a code that is (an ill-formed
command), the write does what the register does with it (R182; log entry 18). -/
def execUnknownCommand (code : Byte) (s : State) : Host.Outcome State Fault Refusal :=
  .next (writeCommandRegister code s)

/-! ### Writes of the window (R179) -/

/-- A write of an address of the window: each address by its class (R179); read-only and unassigned addresses ignore
it. -/
def windowWrite (a : BitVec 7) (v : Byte) (s : State) : State :=
  match a.toNat with
  | 0x00 => writeCommandRegister v s
  | 0x04 => writeLinkSelect v s
  | 0x05 => { s with host := { s.host with p0 := v } }
  | 0x06 => { s with host := { s.host with p1 := v } }
  | 0x07 => { s with host := { s.host with p2 := v } }
  | 0x25 => writeCursorLow v s
  | 0x26 => writeCursorHigh v s
  | 0x27 => writeComposePort v s
  | 0x47 => writeCeilingLow v s
  | 0x48 => writeCeilingHigh v s
  | n =>
    match settingAt n with
    | some x => writeSetting x v.toNat s
    | none => s

/-- CONFIGURATION_WRITE: a write of any address that has no row of its own. At an address that has one (an ill-formed
command), the write does what the window does with it (R179, R181, R184; log entry 18). -/
def execConfigurationWrite (a : BitVec 7) (v : Byte) (s : State) : Host.Outcome State Fault Refusal :=
  .next (hostWrite (windowWrite a v) s)

end Sys2Proof.Machine
end

