-- ==== Sys2Proof/Machine/Bus.lean ====
section
/-! DEFINITION. The host bus at the pins: when an access is taken, when it is ignored, and when the part drives D0 to D7
(R178). -/

namespace Sys2Proof.Machine

/-- What a read of an address does beyond driving its value (R26, R34, R36, R125, R127, R137). -/
def readEffect (a : BitVec 7) : State → State :=
  match a.toNat with
  | 0x24 => readDataPort
  | 0x25 => latchCursor
  | 0x28 => latchWriteCount
  | 0x2A => latchTickCounter
  | 0x2E => latchFreeCount
  | 0x49 => latchInboundHold
  | _ => id

/-- A read of any address is taken (R178, R179, R188). -/
def takeRead (a : BitVec 7) (s : State) : State := hostRead (fun s => windowRead s a) (readEffect a) s

/-- A write of any address is taken (R178, R179, R188). -/
def takeWrite (a : BitVec 7) (v : Byte) (s : State) : State := hostWrite (windowWrite a v) s

/-- The access in progress at the pins `p` is ignored: CS, RD and WR are all low together, or that or a falling RESET
line has already made the part ignore it (R178, R188; log entry 27). -/
def ignoresAccess (i : Inputs) (p : Pins) : Bool :=
  (p.reads && p.writes) || (i.voided && (p.reads || p.writes))

/-- The pins change to `p` with WR returning high while CS stays low: a write is taken (R178; log entry 27). -/
def writeEnds (i : Inputs) (p : Pins) : Bool :=
  i.pins.writes && p.cs == .low && p.wr == .high && !i.voided

/-- The pins change to `p` with CS and RD first becoming low together: a read is taken (R178). -/
def readBegins (i : Inputs) (p : Pins) : Bool := p.reads && !i.pins.reads && !ignoresAccess i p

/-- The pins change to `p` with CS and RD still low together, in a read that is not ignored: the part drives on
(R178). -/
def readHeld (i : Inputs) (p : Pins) : Bool := p.reads && i.pins.reads && !ignoresAccess i p

/-- The part stops driving D0 to D7 (R178). -/
def releaseBus (s : State) : State := { s with host := { s.host with dataBus := none } }

/-- The data lines while the pins change from `i` to `p`: driven from the moment a read is taken until RD or CS returns high, and
never otherwise (R178). -/
def driveData (i : Inputs) (p : Pins) (s : State) : State :=
  if readBegins i p then takeRead p.address s else if readHeld i p then s else releaseBus s

/-- The pins at the next reference period: the next of those to come, or as they are (log entry 26). -/
def Inputs.next (i : Inputs) : Pins := i.coming.headD i.pins

/-- The input pins at the next reference period. -/
def Inputs.advance (i : Inputs) : Inputs := ⟨i.next, i.coming.tail, ignoresAccess i i.next⟩

/-- One reference period of the host bus (R178). -/
def busPeriod (s : State) : State :=
  let p := s.inputs.next
  let t := driveData s.inputs p (if writeEnds s.inputs p then takeWrite p.address p.data s else s)
  { t with inputs := s.inputs.advance }

end Sys2Proof.Machine
end

