-- ==== Sys2Proof/Machine/Receiver.lean ====
section
/-! DEFINITION. The receivers of the link ports: the classification and the hand-off of frames, characters, gaps, and
the samples of a receive line (sections 1.2 and 1.4). -/

namespace Sys2Proof.Machine

/-- The receiver of link `L` enters a state with the receive frame buffer given. -/
def setReceiver (L : Link) (r : ReceiverState) (buf : List Byte) (s : State) : State :=
  s.setPort L { s.port L with receiver := r, rxBuffer := buf }

/-- The receiver of link `L` is in FRAME and the frame stands as given (R8). -/
def State.receiving (s : State) (L : Link) (p : RxProgress) : Bool :=
  (s.port L).receiver == .frame && rxProgress (s.port L).rxBuffer == p

/-- An idle gap that the receiver of link `L` measures begins anew: `n` samples of mark are still to come (R7, R9). -/
def restartGap (L : Link) (n : Nat) (s : State) : State := s.setPort L { s.port L with idleLeft := n }

/-- A frame being received is discarded and counted once as a format error; the receiver hunts (R9). -/
def discardToHunt (L : Link) (s : State) : State := count L .formatErrors (setReceiver L .hunt [] s)

/-- A frame being received is discarded and counted once as a format error; the receiver settles, and measures the idle
gap from its entry to SETTLING (R7 to R9). That this entry is at the sample in the middle of the character's stop bit,
so that 320 samples of mark from there end SETTLING, is a DESIGN CHOICE (log entry 28). -/
def discardToSettling (L : Link) (s : State) : State :=
  count L .formatErrors (restartGap L Config.gapSamples (setReceiver L .settling [] s))

/-- A payload length above 64 discards the frame at once (R8). -/
def discardOversized (L : Link) (s : State) : State := if s.receiving L .oversized then discardToSettling L s else s

/-- OVERSIZED_PAYLOAD_LENGTH (R8). -/
def execOversizedPayloadLength (L : Link) (s : State) : Host.Outcome State Fault Refusal :=
  .next (discardOversized L s)

/-! ### The hand-off (R13) -/

/-- The receiving block takes the frame that link `L` has handed over (R13, R66, R152). -/
def takeHandedOver (L : Link) (s : State) : State := takeHandedRefuse L (takeHandedAck L (takeHandedFragment L s))

/-- One reference period of the hand-off of link `L`: a frame that no command has taken is taken when one character time
has passed since it was handed over (R13; log entry 10). -/
def handOffPeriod (L : Link) (s : State) : State :=
  if (s.port L).handedOver.isNone then s
  else if (s.port L).handedPeriods + 1 < Config.characterPeriods (s.port L).lineRate then
    s.setPort L { s.port L with handedPeriods := (s.port L).handedPeriods + 1 }
  else takeHandedOver L s

/-- The receiver returns to HUNT, and the complete frame is counted, ignored or handed over (R8, R10 to R13). -/
def completeFrame (L : Link) (s : State) : State :=
  match classify (s.port L).stationAddress (s.port L).acceptBroadcast (s.port L).rxBuffer with
  | .checkError => count L .checkErrors (setReceiver L .hunt [] s)
  | .formatError => count L .formatErrors (setReceiver L .hunt [] s)
  | .ignored => setReceiver L .hunt [] s
  | .accepted h =>
    s.setPort L { s.port L with receiver := .hunt, rxBuffer := [], handedOver := some h, handedPeriods := 0 }

/-- A complete frame is classified. A frame handed over before it is always taken before it completes (R13). -/
def finishFrame (L : Link) (s : State) : State :=
  if s.receiving L .complete then completeFrame L (takeHandedOver L s) else s

/-- RX_FRAME_COMPLETE (R8). -/
def execRxFrameComplete (L : Link) (s : State) : Host.Outcome State Fault Refusal := .next (finishFrame L s)

/-- A frame that is complete, or whose payload length is above 64, is finished (R8; log entry 9). -/
def concludeFrame (L : Link) (s : State) : State := discardOversized L (finishFrame L s)

/-! ### Characters and gaps (R7 to R9) -/

/-- A character with its stop bit at mark reaches the receiver; an idle gap is measured from its stop bit (R7 to R9). -/
def hearCharacter (L : Link) (b : Byte) (s : State) : State :=
  match (s.port L).receiver with
  | .disabled => s
  | .settling => restartGap L Config.gapSamplesAfterStop s
  | .hunt => if b = Config.startByte then restartGap L Config.gapSamplesAfterStop (setReceiver L .frame [b] s) else s
  | .frame => restartGap L Config.gapSamplesAfterStop (setReceiver L .frame ((s.port L).rxBuffer ++ [b]) s)

/-- A character with its stop bit at mark; a frame whose end is due is finished before it (R8; log entry 9). -/
def receiveCharacter (L : Link) (b : Byte) (s : State) : State := hearCharacter L b (concludeFrame L s)

/-- CHARACTER_RECEIVED (R7, R8). -/
def execCharacterReceived (L : Link) (b : Byte) (s : State) : Host.Outcome State Fault Refusal :=
  .next (receiveCharacter L b s)

/-- An idle gap of two character times ends SETTLING (R7). -/
def endSettling (L : Link) (s : State) : State :=
  if (s.port L).receiver = .settling then setReceiver L .hunt (s.port L).rxBuffer s else s

/-- SETTLING_GAP_END (R7). -/
def execSettlingGapEnd (L : Link) (s : State) : Host.Outcome State Fault Refusal := .next (endSettling L s)

/-- An idle gap of two character times ends a frame that is incomplete (R9). -/
def truncateFrame (L : Link) (s : State) : State := if s.receiving L .unfinished then discardToHunt L s else s

/-- TRUNCATION (R9). -/
def execTruncation (L : Link) (s : State) : Host.Outcome State Fault Refusal := .next (truncateFrame L s)

/-- A character error reaches the receiver: in FRAME the frame is discarded and the receiver settles (R9); in SETTLING
the line has not been idle and the gap begins anew (R7; log entry 28); elsewhere it is ignored (R7). -/
def hearError (L : Link) (s : State) : State :=
  match (s.port L).receiver with
  | .frame => discardToSettling L s
  | .settling => restartGap L Config.gapSamples s
  | .disabled | .hunt => s

/-- A character error; a frame whose end is due is finished before it (R8, R9; log entry 9). -/
def receiveError (L : Link) (s : State) : State := hearError L (concludeFrame L s)

/-- CHARACTER_ERROR (R7, R9). -/
def execCharacterError (L : Link) (s : State) : Host.Outcome State Fault Refusal := .next (receiveError L s)

/-! ### The samples of the receive line (R2) -/

/-- What the samples have ended in reaches the receiver. -/
def takeLineEvent (L : Link) (s : State) : Option LineEvent → State
  | some (.character b) => receiveCharacter L b s
  | some .error => receiveError L s
  | none => s

/-- A sample of the receive line at mark with no confirmed start bit: one sample less to an idle gap, which ends SETTLING
or an incomplete frame (R2, R7, R9; log entry 28). -/
def countIdle (L : Link) (s : State) : State :=
  if (s.port L).idleLeft ≤ 1 then truncateFrame L (endSettling L (restartGap L 0 s))
  else restartGap L ((s.port L).idleLeft - 1) s

/-- The receiver measures an idle gap: in SETTLING, and in FRAME while the frame is incomplete (R7, R9). -/
def State.measuring (s : State) (L : Link) : Bool :=
  (s.port L).receiver == .settling || s.receiving L .unfinished

/-- One sample of the receive line of link `L`: a character or a character error that it ends is received, and otherwise
mark counts towards an idle gap; a frame that is then complete or oversized is finished at once (R2, R7 to R9). -/
def sampleReceiver (L : Link) (v : Level) (s : State) : State :=
  let r := sampleLine v (s.port L).sampler
  let s := s.setPort L { s.port L with sampleCount := 0, sampler := r.1 }
  let s :=
    if r.2.isNone && v == .high && r.1.unconfirmed && s.measuring L then countIdle L s else takeLineEvent L s r.2
  concludeFrame L s

/-- One reference period of the receiver of link `L`: the line is sampled at 16 times the bit rate (R2, R3). -/
def receiverPeriod (L : Link) (s : State) : State :=
  if (s.port L).sampleCount + 1 < Config.samplePeriods (s.port L).lineRate then
    s.setPort L { s.port L with sampleCount := (s.port L).sampleCount + 1 }
  else sampleReceiver L (s.inputs.pins.rxd.look L) s

end Sys2Proof.Machine
end

