-- ==== Sys2Proof/Machine/Tick.lean ====
section
/-! DEFINITION. The tick: the owners' expiries that are still due, and then the tick of the time base (R23, R25, R28,
R29). -/

namespace Sys2Proof.Machine

/-- The reassembly unit takes every expiry that is due, in ascending entry number. -/
def takeLifetimeExpiries (s : State) : State := (List.finRange 32).foldl (fun s e => lifetimeExpiry e s) s

/-- The outbound scheduler takes every expiry that is due, in ascending descriptor number. -/
def takeMessageExpiries (s : State) : State :=
  (List.finRange 96).foldl (fun s d => backoffExpiry d (ackWaitExpiry d s)) s

/-- Every expiry of the present tick that has not been taken is taken now, before the counter reaches the next value
(R28; log entry 5 gives the order). -/
def takeExpiries (s : State) : State := takeMessageExpiries (takeLifetimeExpiries s)

/-- A tick is taken, after the expiries of the tick before it (R23, R25, R28, R29). The RESET line held low keeps the
time base in reset (R31). -/
def takeTick (s : State) : State :=
  if s.host.resetLow then s
  else
    let s := takeExpiries s
    { s with time := advanceTick s.time }

/-- TICK (R23, R25, R29), at any period count (log entry 4). -/
def execTick (s : State) : Host.Outcome State Fault Refusal := .next (takeTick s)

end Sys2Proof.Machine
end

