-- ==== Sys2Proof/Machine/Clock.lean ====
section
/-! DEFINITION. One reference clock period with no command waiting: the host bus, the time base, the rebuild of the free
list, and each link's transmitter, hand-off and receiver (R2, R3, R13, R14, R23, R30, R45, R178, R190; log entry 2). -/

namespace Sys2Proof.Machine

/-- The rebuild places the next block, and ends with block 511 (R45, R190). -/
def placeBlock (s : State) : State :=
  if s.rebuilding then
    if s.pool.freeList.length + 1 < 512 then
      { s with pool := { s.pool with freeList := s.pool.freeList ++ (blocksToPlace s.pool.freeList).take 1 } }
    else finishRebuild s
  else s

/-- The time base counts one reference period; the period that reaches the interval length produces a tick (R23). -/
def countPeriod (s : State) : State :=
  if s.time.periodCount + 1 < s.time.intervalLength then
    { s with time := { s.time with periodCount := s.time.periodCount + 1 } }
  else takeTick s

/-- One reference period of link `L`: the transmitter, the hand-off of the last frame received, and the receiver (log
entry 2 gives the order). -/
def linkPeriod (L : Link) (s : State) : State := receiverPeriod L (handOffPeriod L (transmitterPeriod L s))

/-- One reference period of the four links (log entry 2 gives the order). -/
def linkPeriods (s : State) : State := linkPeriod 3 (linkPeriod 2 (linkPeriod 1 (linkPeriod 0 s)))

/-- One reference clock period. Held in reset, the part answers reads and changes in nothing else (R22, R31, R188). -/
def clockPeriod (s : State) : State :=
  let s := busPeriod s
  if s.host.resetLow then s else linkPeriods (placeBlock (agePulsePeriod (countPeriod s)))

end Sys2Proof.Machine
end

