-- ==== Sys2Proof/Machine/Dispatch.lean ====
section
/-! DEFINITION. The dispatch of a command to its meaning, one arm per row of the table. -/

namespace Sys2Proof.Machine

/-- The effect of a command on everything but the queue. -/
def exec (i : Instr) (s : State) : Host.Outcome State Fault Refusal :=
  match i with
  | .resetLineLow => Sys2Proof.Machine.execResetLineLow s
  | .resetLineHigh => Sys2Proof.Machine.execResetLineHigh s
  | .freeListRebuilt => Sys2Proof.Machine.execFreeListRebuilt s
  | .tick => Sys2Proof.Machine.execTick s
  | .agePulse => Sys2Proof.Machine.execAgePulse s
  | .contextLifetimeExpiry entry => Sys2Proof.Machine.execContextLifetimeExpiry entry s
  | .acknowledgementWaitExpiry descriptor => Sys2Proof.Machine.execAcknowledgementWaitExpiry descriptor s
  | .refuseBackoffExpiry descriptor => Sys2Proof.Machine.execRefuseBackoffExpiry descriptor s
  | .settlingGapEnd link => Sys2Proof.Machine.execSettlingGapEnd link s
  | .rxFrameComplete link => Sys2Proof.Machine.execRxFrameComplete link s
  | .truncation link => Sys2Proof.Machine.execTruncation link s
  | .characterError link => Sys2Proof.Machine.execCharacterError link s
  | .oversizedPayloadLength link => Sys2Proof.Machine.execOversizedPayloadLength link s
  | .fragment link => Sys2Proof.Machine.execFragment link s
  | .ackReceived link => Sys2Proof.Machine.execAckReceived link s
  | .refuseReceived link => Sys2Proof.Machine.execRefuseReceived link s
  | .frameStart link => Sys2Proof.Machine.execFrameStart link s
  | .frameEnd link => Sys2Proof.Machine.execFrameEnd link s
  | .txGapEnd link => Sys2Proof.Machine.execTxGapEnd link s
  | .linkStart => Sys2Proof.Machine.execLinkStart s
  | .linkStop => Sys2Proof.Machine.execLinkStop s
  | .linkReset => Sys2Proof.Machine.execLinkReset s
  | .take => Sys2Proof.Machine.execTake s
  | .takeAny => Sys2Proof.Machine.execTakeAny s
  | .release => Sys2Proof.Machine.execRelease s
  | .requeue => Sys2Proof.Machine.execRequeue s
  | .composeOpen => Sys2Proof.Machine.execComposeOpen s
  | .composeSubmit => Sys2Proof.Machine.execComposeSubmit s
  | .composeCancel => Sys2Proof.Machine.execComposeCancel s
  | .outWithdraw => Sys2Proof.Machine.execOutWithdraw s
  | .noticeClearOverflow => Sys2Proof.Machine.execNoticeClearOverflow s
  | .countersClear => Sys2Proof.Machine.execCountersClear s
  | .clearFlags => Sys2Proof.Machine.execClearFlags s
  | .deviceReset => Sys2Proof.Machine.execDeviceReset s
  | .unknownCommand code => Sys2Proof.Machine.execUnknownCommand code s
  | .readDataPortRead => Sys2Proof.Machine.execReadDataPortRead s
  | .readCursorLowWrite value => Sys2Proof.Machine.execReadCursorLowWrite value s
  | .readCursorHighWrite value => Sys2Proof.Machine.execReadCursorHighWrite value s
  | .readCursorLowRead => Sys2Proof.Machine.execReadCursorLowRead s
  | .composeDataPortWrite value => Sys2Proof.Machine.execComposeDataPortWrite value s
  | .tickCounterLowRead => Sys2Proof.Machine.execTickCounterLowRead s
  | .freeCountLowRead => Sys2Proof.Machine.execFreeCountLowRead s
  | .inboundHoldLowRead => Sys2Proof.Machine.execInboundHoldLowRead s
  | .writeCountLowRead => Sys2Proof.Machine.execWriteCountLowRead s
  | .ceilingLowWrite value => Sys2Proof.Machine.execCeilingLowWrite value s
  | .ceilingHighWrite value => Sys2Proof.Machine.execCeilingHighWrite value s
  | .linkSelectWrite value => Sys2Proof.Machine.execLinkSelectWrite value s
  | .configurationWrite address value => Sys2Proof.Machine.execConfigurationWrite address value s
  | .characterReceived link character => Sys2Proof.Machine.execCharacterReceived link character s

end Sys2Proof.Machine
end

