-- ==== Sys2Proof/Safety.lean ====
section
/-! DEFINITION. What holds of the MC-4 in every run: the properties that the spec states of the whole part, as
predicates of one state, for the invariants that claims are made about. -/

namespace Sys2Proof.Safety

open Sys2Proof.Machine

/-! ### Settings (section 11.5) -/

/-- The settings of one link have values of their ranges (R1, R37, R64, R107, R146). -/
structure LinkSettingsLegal (s : State) (L : Link) : Prop where
  stationAddress : (s.port L).stationAddress ≤ 254
  lineRate : (s.port L).lineRate ≤ 7
  quota : 1 ≤ s.reasm.quota.look L ∧ s.reasm.quota.look L ≤ 32
  lifetime : 1 ≤ s.reasm.lifetime.look L ∧ s.reasm.lifetime.look L ≤ 255
  ceiling : 16 ≤ s.pool.ceiling.look L ∧ s.pool.ceiling.look L ≤ 512
  weight : s.arbiter.linkWeight.look L ≤ 7
  outstandingLimit : 1 ≤ (s.sch L).outstandingLimit ∧ (s.sch L).outstandingLimit ≤ 4
  attemptLimit : 1 ≤ (s.sch L).attemptLimit ∧ (s.sch L).attemptLimit ≤ 15
  ackWait : 1 ≤ (s.sch L).ackWait ∧ (s.sch L).ackWait ≤ 255
  refuseBackoff : 1 ≤ (s.sch L).refuseBackoff ∧ (s.sch L).refuseBackoff ≤ 255

/-- Every setting has a value of its range. -/
structure SettingsLegal (s : State) : Prop where
  prescale : s.time.prescale ≤ 255
  ageStep : s.time.ageStep ≤ 255
  reserve : s.pool.reserve ≤ 64
  noticeWeight : s.arbiter.noticeWeight ≤ 7
  threshold : s.arbiter.threshold ≤ 255
  links : ∀ L, LinkSettingsLegal s L

/-! ### The time base (chapter 2) -/

/-- The period count is below the interval length, which some prescale gives (R23). -/
def PeriodInInterval (s : State) : Prop :=
  s.time.periodCount < s.time.intervalLength ∧ ∃ p ≤ 255, s.time.intervalLength = Config.intervalOf p

/-- Every armed deadline lies 0 to 255 ticks ahead of the tick counter (R27, R28): none has been passed. -/
structure DeadlinesAhead (s : State) : Prop where
  contexts : ∀ e c, s.context e = some c → (c.deadline - s.now).toNat ≤ 255
  messages : ∀ d t, ((s.desc d).state = .awaitAck ∨ (s.desc d).state = .backoff) →
    (s.desc d).deadline = some (.armed t) → (t - s.now).toNat ≤ 255

/-! ### Bounded queues and counts -/

/-- No counter is above 255 (R174). -/
structure CountersBounded (k : Counters) : Prop where
  checkErrors : k.checkErrors ≤ 255
  formatErrors : k.formatErrors ≤ 255
  duplicateFragments : k.duplicateFragments ≤ 255
  duplicateMessages : k.duplicateMessages ≤ 255
  noContextDrops : k.noContextDrops ≤ 255
  noBlockDrops : k.noBlockDrops ≤ 255
  controlLost : k.controlLost ≤ 255
  stray : k.stray ≤ 255

/-- Queues, histories, counters and ages stay within their bounds (R30, R89, R96, R168, R171, R174). -/
structure QueuesBounded (s : State) : Prop where
  notices : s.notices.records.length ≤ 32
  overflow : s.notices.overflow ≤ 255
  control : ∀ L, (s.port L).controlQueue.length ≤ 8
  history : ∀ L, (s.history L).length ≤ 16
  counters : ∀ L, CountersBounded (s.port L).counters
  age : ∀ d, (s.desc d).age ≤ 31

/-! ### Links (chapter 1) -/

/-- A link's receiver, transmitter and queues are as its link state says (R7, R14, R18, R66, R97, R103, R144), and a frame
handed over waits for less than one character time (R13). -/
structure LinkSound (s : State) (L : Link) : Prop where
  receiver : (s.port L).receiver = .disabled ↔ (s.port L).state ≠ .run
  handedOver : (s.port L).state ≠ .run → (s.port L).handedOver = none
  handedFor : (s.port L).handedOver ≠ none →
    (s.port L).handedPeriods < Config.characterPeriods (s.port L).lineRate
  buffer : (s.port L).receiver ≠ .frame → (s.port L).rxBuffer = []
  bufferSize : (s.port L).rxBuffer.length ≤ 73
  control : (s.port L).state = .off → (s.port L).controlQueue = []
  offLine : (s.port L).state = .off → (s.port L).transmitter ≠ .active
  stopping : (s.port L).state = .stopping → (s.port L).transmitter = .active
  line : (s.sch L).lineRecord ≠ none → (s.port L).transmitter = .active
  address : (s.port L).state ≠ .off → (s.port L).stationAddress ≠ 0
  contexts : (s.port L).state = .off → ∀ e c, s.context e = some c → c.link ≠ L

/-- Every link is sound. -/
def LinksSound (s : State) : Prop := ∀ L, LinkSound s L

/-! ### Keys (R63, R89) -/

/-- No two contexts hold one key, no history holds a key twice, and no key is both held by a context and in its link's
history. -/
structure KeysDistinct (s : State) : Prop where
  contexts : ∀ e e' c c', s.context e = some c → s.context e' = some c' →
    c.link = c'.link → c.origin = c'.origin → c.tag = c'.tag → e = e'
  history : ∀ L, (s.history L).Nodup
  apart : ∀ e c, s.context e = some c → (⟨c.origin, c.tag⟩ : Key) ∉ s.history c.link

/-- The contexts of a link never number more than its quota (R63). -/
def QuotaKept (s : State) : Prop := ∀ L, s.contextCount L ≤ s.reasm.quota.look L

/-! ### Holders of descriptors (R49, R54, R144, R145) -/

/-- The descriptor is outstanding: SENDING, AWAIT_ACK, BACKOFF or RESEND. -/
def outstandingState : DescState → Bool
  | .sending | .awaitAck | .backoff | .resend => true
  | .free | .assembling | .ready | .service | .composing | .queued => false

/-- Every record that names a descriptor names one in the state that belongs to it, and every descriptor that is not
FREE is named by exactly the record that belongs to its state; a FREE one holds the cleared record (R47). -/
structure HoldersSound (s : State) : Prop where
  context : ∀ e c, s.context e = some c →
    (s.desc c.descriptor).state = .assembling ∧ (s.desc c.descriptor).link = c.link
  contextOnce : ∀ e e' c c', s.context e = some c → s.context e' = some c' → c.descriptor = c'.descriptor → e = e'
  ready : ∀ L d, d ∈ s.ready L → (s.desc d).state = .ready ∧ (s.desc d).link = L
  readyOnce : ∀ L, (s.ready L).Nodup
  service : ∀ d, s.serviceDescriptor = some d → (s.desc d).state = .service
  composing : ∀ d, s.compose.descriptor = some d → (s.desc d).state = .composing
  queued : ∀ L d, d ∈ (s.sch L).outboundQueue → (s.desc d).state = .queued ∧ (s.desc d).link = L
  queuedOnce : ∀ L, (s.sch L).outboundQueue.Nodup
  outstanding : ∀ L d, d ∈ (s.sch L).outstanding →
    outstandingState (s.desc d).state = true ∧ (s.desc d).link = L
  outstandingOnce : ∀ L, (s.sch L).outstanding.Nodup
  resend : ∀ L d, d ∈ (s.sch L).resendOrder → (s.desc d).state = .resend ∧ (s.desc d).link = L
  resendOnce : ∀ L, (s.sch L).resendOrder.Nodup
  assemblingHeld : ∀ d, (s.desc d).state = .assembling → ∃ e c, s.context e = some c ∧ c.descriptor = d
  readyHeld : ∀ d, (s.desc d).state = .ready → d ∈ s.ready (s.desc d).link
  serviceHeld : ∀ d, (s.desc d).state = .service → s.serviceDescriptor = some d
  composingHeld : ∀ d, (s.desc d).state = .composing → s.compose.descriptor = some d
  queuedHeld : ∀ d, (s.desc d).state = .queued → d ∈ (s.sch (s.desc d).link).outboundQueue
  outstandingHeld : ∀ d, outstandingState (s.desc d).state = true → d ∈ (s.sch (s.desc d).link).outstanding
  resendHeld : ∀ d, (s.desc d).state = .resend → d ∈ (s.sch (s.desc d).link).resendOrder
  freeCleared : ∀ d, (s.desc d).state = .free → s.desc d = .cleared
  sendingOnce : ∀ d d', (s.desc d).state = .sending → (s.desc d').state = .sending →
    (s.desc d).link = (s.desc d').link → d = d'
  line : ∀ L n d, (s.sch L).lineRecord = some ⟨n, some d⟩ → (s.desc d).state = .sending ∧ (s.desc d).link = L

/-- The outstanding messages of a link are within its limit, hold tags that differ, and have begun 1 to the limit
attempts, below it while they wait to be sent again (R145, R157). -/
structure OutstandingSound (s : State) : Prop where
  count : ∀ L, (s.sch L).outstanding.length ≤ (s.sch L).outstandingLimit
  tagged : ∀ L d, d ∈ (s.sch L).outstanding → (s.desc d).tag ≠ none
  tagsDiffer : ∀ L d d', d ∈ (s.sch L).outstanding → d' ∈ (s.sch L).outstanding →
    (s.desc d).tag = (s.desc d').tag → d = d'
  attempts : ∀ L d, d ∈ (s.sch L).outstanding → (s.desc d).attempts ≤ (s.sch L).attemptLimit
  below : ∀ L d, d ∈ (s.sch L).outstanding → ((s.desc d).state = .backoff ∨ (s.desc d).state = .resend) →
    (s.desc d).attempts < (s.sch L).attemptLimit

/-! ### Blocks (R32, R37, R48) -/

/-- How many times the fragment slots of an entry hold block `b`. -/
def slotCount (b : BlockNo) : Option Context → Nat
  | some c => (slotBlocks c).count b
  | none => 0

/-- How many times a block is held: in the free list, in fragment slots and in chains. -/
def placesOf (s : State) (b : BlockNo) : Nat :=
  s.pool.freeList.count b
    + ((List.finRange 32).map fun e => slotCount b (s.context e)).sum
    + ((List.finRange 96).map fun d => (s.desc d).chain.count b).sum

/-- Every block is in exactly one place once the free list is rebuilt (R32), and in none but the free list before; only
the slots of received fragments are occupied (R62, R78), and a FREE or ASSEMBLING descriptor holds no chain (R41). -/
structure BlocksAccounted (s : State) : Prop where
  onePlace : s.host.device = .ready → ∀ b, placesOf s b = 1
  rebuild : s.host.device = .initialising → s.pool.freeList = (List.finRange 512).take s.pool.freeList.length
  slots : ∀ e c n b, s.context e = some c → c.slots.look n = some b → c.received.look n = true
  noSlots : s.host.device = .initialising → ∀ e, s.context e = none
  noChains : ∀ d, ((s.desc d).state = .free ∨ (s.desc d).state = .assembling ∨ s.host.device = .initialising) →
    (s.desc d).chain = []

/-- The inbound hold of a link never exceeds its inbound ceiling (R37). -/
def HoldWithinCeiling (s : State) : Prop := ∀ L, s.inboundHold L ≤ s.pool.ceiling.look L

/-! ### Reset and initialisation (R188, R190) -/

/-- While the RESET line is held low the part is in its reset state (R22, R31, R188). -/
def HeldInReset (s : State) : Prop := s.host.resetLow = true → s = deviceReset true s

/-- During initialisation every link is OFF, no context exists, every descriptor is FREE, nothing is queued, and the
service and compose contexts are empty (R45, R129, R143, R173, R190). -/
structure QuietWhileInitialising (s : State) : Prop where
  links : s.host.device = .initialising → ∀ L, (s.port L).state = .off
  contexts : s.host.device = .initialising → ∀ e, s.context e = none
  descriptors : s.host.device = .initialising → ∀ d, s.desc d = .cleared
  ready : s.host.device = .initialising → ∀ L, s.ready L = []
  service : s.host.device = .initialising → s.arbiter.service = .empty
  composing : s.host.device = .initialising → s.compose.descriptor = none
  notices : s.host.device = .initialising → s.notices.records = []
  flags : s.host.device = .initialising →
    s.arbiter.overread = false ∧ s.compose.stalled = false ∧ s.compose.overlong = false

/-! ### The memory of the pool -/

/-- The data of the blocks is in canonical form. -/
def MemorySound (s : State) : Prop := Memory.wf s.pool.blocks

end Sys2Proof.Safety
end

