-- ==== Sys2Proof/Certificates/Slice0/Obligations.lean ====
section
/-! DEFINITION. The statements about the MC-4, for the provers. Every statement about a command says the whole next
state: what it does not name is unchanged, the queue of commands and the data of the blocks among it. -/

open Sys2Proof Sys2Proof.Machine Sys2Proof.Safety

namespace Sys2Proof.Statement

/-! ### What the statements are written with -/

/-- The host port after a command has been answered (R182, R183). -/
def answered (code : Byte) (o : CommandOutcome) (s : State) : HostPort :=
  { s.host with command := code, outcome := o }

/-- The notice queue after a record has been offered to it (R171). -/
def offered (n : Notice) (q : NoticeQueue) : NoticeQueue :=
  if q.records.length < 32 then { q with records := q.records ++ [n] }
  else { q with overflow := min 255 (q.overflow + 1) }

/-- The code of a command of the command register (section 11.2). -/
def commandCode : Instr → Option Byte
  | .linkStart => some 0x01
  | .linkStop => some 0x02
  | .linkReset => some 0x03
  | .take => some 0x10
  | .takeAny => some 0x11
  | .release => some 0x12
  | .requeue => some 0x13
  | .composeOpen => some 0x20
  | .composeSubmit => some 0x21
  | .composeCancel => some 0x22
  | .outWithdraw => some 0x28
  | .noticeClearOverflow => some 0x30
  | .countersClear => some 0x31
  | .clearFlags => some 0x32
  | .deviceReset => some 0x3F
  | .unknownCommand code => some code
  | _ => none

/-- The command is a write of the window that is no command of the command register. -/
def isDataWrite : Instr → Bool
  | .readCursorLowWrite _ | .readCursorHighWrite _ | .composeDataPortWrite _ | .ceilingLowWrite _
  | .ceilingHighWrite _ | .linkSelectWrite _ | .configurationWrite _ _ => true
  | _ => false

/-- The address that a read command reads (section 11.5). -/
def readAddress : Instr → Option (BitVec 7)
  | .readDataPortRead => some 0x24
  | .readCursorLowRead => some 0x25
  | .writeCountLowRead => some 0x28
  | .tickCounterLowRead => some 0x2A
  | .freeCountLowRead => some 0x2E
  | .inboundHoldLowRead => some 0x49
  | _ => none

/-- The column "After device reset" of the register map (section 11.5): what each address reads, where a two-byte value
that is read with a latch shows its low byte, and its high byte through the latch. -/
def resetValue (a : Nat) : Byte :=
  match a with
  | 0x2C => 3
  | 0x2D => 10
  | 0x30 => 96
  | 0x31 => 16
  | 0x34 => 4
  | 0x42 => 1
  | 0x43 => 5
  | 0x44 => 8
  | 0x45 => 100
  | 0x47 => 128
  | 0x4C => 2
  | 0x4D => 2
  | 0x4E => 4
  | 0x4F => 20
  | 0x50 => 50
  | 0x51 => 1
  | _ => 0

/-- State `t` is the reset state, with the RESET line at the level given; the data bytes of the blocks are those of
`s`. The model's choices in it are the values and the data that section 11.5 does not give: `agePulses` (log entry 6),
`handedPeriods` (10), `txBuffer` (11), `txPeriods` and GAP for every transmitter (13, 22), `dataBus` kept (15),
`pending` kept (23), `inputs` (26, 27), and the sampling of the receive lines (28). -/
structure InResetState (low : Bool) (s t : State) : Prop where
  pending : t.pending = s.pending
  window : ∀ a : BitVec 7, windowRead t a = resetValue a.toNat
  pages : ∀ L (a : BitVec 7), 0x40 ≤ a.toNat →
    windowRead { t with host := { t.host with linkSelect := L } } a = resetValue a.toNat
  device : t.host.device = .initialising ∧ t.host.resetLow = low ∧ t.host.linkSelect = 0 ∧
    t.host.dataBus = s.host.dataBus
  latches : ∀ L, t.host.ceilingLatch.look L = 0
  ports : ∀ L, (t.port L).receiver = .disabled ∧ (t.port L).rxBuffer = [] ∧ (t.port L).handedOver = none ∧
    (t.port L).handedPeriods = 0 ∧ (t.port L).transmitter = .gap ∧ (t.port L).txPeriods = 0 ∧ (t.port L).txBuffer = [] ∧
    (t.port L).controlQueue = [] ∧ (t.port L).sampleCount = 0 ∧ (t.port L).sampler = .waitMark ∧
    (t.port L).idleLeft = 0
  lines : ∀ L, t.txd L = .high
  inputs : t.inputs = { s.inputs with
    voided := if low then
        decide (s.inputs.pins.cs = .low ∧ (s.inputs.pins.rd = .low ∨ s.inputs.pins.wr = .low))
      else s.inputs.voided }
  time : t.time.periodCount = 0 ∧ t.time.intervalLength = 16384 ∧ t.time.divider = 0 ∧ t.time.tickCounter = 0 ∧
    t.time.agePulses = 0
  pool : t.pool.freeList = [] ∧ (∀ b, t.pool.usedLength.look b = 0) ∧ t.pool.blocks = s.pool.blocks
  free : t.freeCount = 512 ∧ t.freeDescriptors = 96
  descriptors : ∀ d, t.desc d = .cleared
  ready : ∀ L, t.ready L = []
  contexts : ∀ e, t.context e = none
  history : ∀ L, t.history L = []
  scheduler : ∀ L, (t.sch L).outboundQueue = [] ∧ (t.sch L).resendOrder = [] ∧ (t.sch L).outstanding = [] ∧
    (t.sch L).lineRecord = none
  compose : t.compose.descriptor = none ∧ t.compose.writeCount = 0 ∧ t.compose.stalled = false ∧ t.compose.overlong = false
  notices : t.notices.records = [] ∧ t.notices.overflow = 0
  service : t.arbiter.service = .empty ∧ t.arbiter.cursor = 0 ∧ t.arbiter.cursorWriteLatch = 0 ∧
    t.arbiter.overread = false ∧ t.attn = false

/-- Link `L` is in RUN and has handed over the fragment `f` (R13, R66). -/
def Taking (L : Link) (f : Fragment) (s : State) : Prop :=
  (s.port L).handedOver = some (.data f) ∧ (s.port L).state = .run

/-- An armed deadline of a context, or of a message that waits, is the tick of now (R27, R28). -/
abbrev Due (s : State) : Prop :=
  (∃ e, (s.context e).map (·.deadline) = some s.now) ∨
    ∃ d, ((s.desc d).state = .awaitAck ∨ (s.desc d).state = .backoff) ∧ (s.desc d).deadline = some (.armed s.now)

/-- The expiries of every deadline there can be, in the order in which those still due are taken before a tick (R28;
log entry 5). -/
def everyExpiry : List Instr :=
  (List.finRange 32).map .contextLifetimeExpiry ++
    (List.finRange 96).flatMap fun d => [.acknowledgementWaitExpiry d, .refuseBackoffExpiry d]

/-- The commands given, one after another, lead from `s` to `t`. -/
def inTurn : List Instr → State → State → Prop
  | [], s, t => s = t
  | c :: cs, s, t => ∃ u, exec c s = .next u ∧ inTurn cs u t

/-- The events in which the frame that link `L` has handed over, of whichever kind, is taken by its block (R13). -/
def takings (L : Link) : List Instr := [.fragment L, .ackReceived L, .refuseReceived L]

/-- The payload length of a frame: its seventh byte (R4, R8). -/
abbrev declared (bytes : List Byte) : Nat := (bytes.getD 6 0).toNat

/-- The frame being received is incomplete, and a payload length in it is at most 64 (R8). -/
abbrev Unfinished (bytes : List Byte) : Prop :=
  bytes.length < 7 ∨ (declared bytes ≤ 64 ∧ bytes.length < 9 + declared bytes)

/-- The frame being received is complete: its 9 bytes and its payload are there (R8). -/
abbrev Complete (bytes : List Byte) : Prop :=
  7 ≤ bytes.length ∧ declared bytes ≤ 64 ∧ 9 + declared bytes ≤ bytes.length

/-- The frame being received has a payload length above 64 (R8). -/
abbrev Oversized (bytes : List Byte) : Prop := 7 ≤ bytes.length ∧ 64 < declared bytes

/-- The cause of an event command does not hold in `s`. -/
def causeless (s : State) : Instr → Prop
  | .freeListRebuilt => s.host.device = .ready ∨ s.host.resetLow = true
  | .tick => s.host.resetLow = true
  | .agePulse => s.time.agePulses = 0
  | .contextLifetimeExpiry e => ∀ c, s.context e = some c → c.deadline ≠ s.now
  | .acknowledgementWaitExpiry d =>
    (s.desc d).state ≠ .awaitAck ∨ (s.desc d).deadline ≠ some (.armed s.now)
  | .refuseBackoffExpiry d => (s.desc d).state ≠ .backoff ∨ (s.desc d).deadline ≠ some (.armed s.now)
  | .settlingGapEnd L => (s.port L).receiver ≠ .settling
  | .rxFrameComplete L =>
    (s.port L).receiver ≠ .frame ∨ ¬ Complete (s.port L).rxBuffer
  | .truncation L => (s.port L).receiver ≠ .frame ∨ ¬ Unfinished (s.port L).rxBuffer
  | .characterError L =>
    (s.port L).receiver = .disabled ∨ (s.port L).receiver = .hunt
  | .oversizedPayloadLength L =>
    (s.port L).receiver ≠ .frame ∨ ¬ Oversized (s.port L).rxBuffer
  | .fragment L => ∀ f, ¬ Taking L f s
  | .ackReceived L => ∀ origin tag, (s.port L).handedOver ≠ some (.ack origin tag)
  | .refuseReceived L => ∀ origin tag reason, (s.port L).handedOver ≠ some (.refuse origin tag reason)
  | .frameEnd L => (s.port L).transmitter ≠ .active
  | .txGapEnd L => (s.port L).transmitter ≠ .gap ∨ s.host.resetLow = true
  | _ => False

/-- The state after a reference period of the host bus in which the pins keep their levels: a read goes on, an access
that is ignored stays so until it ends, and D0 to D7 are driven by a read alone (R178). -/
def steady (s : State) : State :=
  let p := s.inputs.pins
  let reads := p.cs = .low ∧ p.rd = .low
  let writes := p.cs = .low ∧ p.wr = .low
  { s with
    inputs := ⟨p, s.inputs.coming.tail,
      decide ((reads ∧ writes) ∨ (s.inputs.voided = true ∧ (reads ∨ writes)))⟩
    host := { s.host with
      dataBus := if reads ∧ ¬ writes ∧ s.inputs.voided = false then s.host.dataBus else none } }

/-- The ten bits of a character whose stop bit is at the level given: a start bit at space, the data bits least
significant bit first, and the stop bit (R2). -/
def tenBits (b : Byte) (stop : Level) : List Level :=
  .low :: (List.range 8).map (fun i => if b.getLsbD i = true then .high else .low) ++ [stop]

/-- Each bit of a line held for the sixteen samples of its bit time (R2). -/
def sampled (bits : List Level) : List Level := bits.flatMap (List.replicate 16)

/-- What a receiver has made of a run of samples: its sampler, and what the samples have ended in. -/
def heard (x : Sampler) (samples : List Level) : Sampler × List LineEvent :=
  samples.foldl (fun h v => ((sampleLine v h.1).1, h.2 ++ (sampleLine v h.1).2.toList)) (x, [])

/-- Each bit of a line held for its bit time in reference periods, at a line rate code (R3). -/
def held (code : Nat) (bits : List Level) : List Level := bits.flatMap (List.replicate (16 * 2 ^ (7 - code)))

/-- The state after the receiver of link `L` has had the levels given at its line, one in each reference period. -/
def hearing (L : Link) (levels : List Level) (s : State) : State :=
  levels.foldl (fun s v => receiverPeriod L { s with
    inputs := { s.inputs with pins := { s.inputs.pins with rxd := s.inputs.pins.rxd.put L v } } }) s

/-- One bit enters the register of the check, which has the generator x^16 + x^12 + x^5 + 1 (R6). -/
def checkBit (register : BitVec 16) (bit : Bool) : BitVec 16 :=
  if register.msb = bit then register <<< 1 else (register <<< 1) ^^^ 0x1021#16

/-- The check over a sequence of bytes: the register starts at FFFFh, and each byte enters most significant bit first
(R6). -/
def check (bytes : List Byte) : BitVec 16 :=
  (bytes.flatMap fun b => (List.range 8).map b.getMsbD).foldl checkBit 0xFFFF#16

/-- A frame as it is sent: the start byte, the bytes given, and the high and the low byte of their check (R4, R6). -/
def framed (body : List Byte) : List Byte :=
  0xA6 :: body ++ [BitVec.ofNat 8 ((check body).toNat / 256), BitVec.ofNat 8 ((check body).toNat % 256)]

/-- The link port with the handed-over frame taken. -/
def taken (p : LinkPort) : LinkPort := { p with handedOver := none }

/-- The link port with one occurrence of a cause counted: its counter rises by 1 and stops at 255, and the other seven
are kept (R174). -/
def counted (c : CounterName) (p : LinkPort) : LinkPort :=
  let k := p.counters
  { p with counters := match c with
    | .checkErrors => { k with checkErrors := min 255 (k.checkErrors + 1) }
    | .formatErrors => { k with formatErrors := min 255 (k.formatErrors + 1) }
    | .duplicateFragments => { k with duplicateFragments := min 255 (k.duplicateFragments + 1) }
    | .duplicateMessages => { k with duplicateMessages := min 255 (k.duplicateMessages + 1) }
    | .noContextDrops => { k with noContextDrops := min 255 (k.noContextDrops + 1) }
    | .noBlockDrops => { k with noBlockDrops := min 255 (k.noBlockDrops + 1) }
    | .controlLost => { k with controlLost := min 255 (k.controlLost + 1) }
    | .stray => { k with stray := min 255 (k.stray + 1) } }

/-- The link port with its loss indicator set. -/
def lossy (p : LinkPort) : LinkPort := { p with lossIndicator := true }

/-- The link port after a request has reached its control queue: appended, or lost and counted when the queue holds 8
(R98, R99). -/
def requested (r : Request) (p : LinkPort) : LinkPort :=
  if p.controlQueue.length < 8 then { p with controlQueue := p.controlQueue ++ [r] } else counted .controlLost p

/-- The link port after the answer to one fragment: a request when the fragment is final and was addressed to the
link's own station address (R81). -/
def replied (k : RequestKind) (f : Fragment) (p : LinkPort) : LinkPort :=
  if f.final = true ∧ f.broadcast = false then requested ⟨k, f.origin, f.tag⟩ p else p

/-- The key that a context stands for: link, origin and tag (R62). -/
def keyOf (c : Context) : Link × Byte × Tag := (c.link, c.origin, c.tag)

/-- The key of the fragment is in neither the history nor the context table (R69). -/
abbrev NewKey (L : Link) (f : Fragment) (s : State) : Prop :=
  (⟨f.origin, f.tag⟩ : Key) ∉ s.history L ∧ ∀ e, (s.context e).map keyOf ≠ some (L, f.origin, f.tag)

/-- The context `c` of entry `e` holds the key of the fragment, which is not in the history (R67, cases 3 to 6); no entry
below holds it too. -/
abbrev KnownKey (L : Link) (f : Fragment) (e : EntryNo) (c : Context) (s : State) : Prop :=
  (⟨f.origin, f.tag⟩ : Key) ∉ s.history L ∧ s.context e = some c ∧ keyOf c = (L, f.origin, f.tag) ∧
    ∀ e' < e, (s.context e').map keyOf ≠ some (L, f.origin, f.tag)

/-- The fragment conflicts with its context by one of the three conditions of R75: it lies beyond a final fragment, it is
a second final fragment, or it is final and lies before a fragment received. -/
abbrev Conflicts (c : Context) (f : Fragment) : Prop :=
  (∃ n, c.final = some n ∧ n < f.number) ∨ (f.final = true ∧ ∃ n, c.final = some n ∧ n ≠ f.number) ∨
    (f.final = true ∧ ∃ m, c.received.look m = true ∧ f.number < m)

/-- With the fragment, the context has received exactly the fragments 0 to `last`, the final one (R79). -/
abbrev WholeWith (c : Context) (f : Fragment) (last : FragNo) : Prop :=
  (if f.final = true then some f.number else c.final) = some last ∧
    ∀ n : FragNo, n ≤ last ↔ n = f.number ∨ c.received.look n = true

/-- Entry `e` is the lowest FREE entry of the context table (R72). -/
abbrev LowestEntry (e : EntryNo) (s : State) : Prop := s.context e = none ∧ ∀ e' < e, s.context e' ≠ none

/-- Descriptor `d` is the lowest FREE descriptor (R50). -/
abbrev LowestFree (d : DescNo) (s : State) : Prop :=
  (s.desc d).state = .free ∧ ∀ d' < d, (s.desc d').state ≠ .free

/-- The blocks in the fragment slots of a context, in ascending fragment number (R42). -/
def blocksOf (c : Context) : List BlockNo := (List.finRange 16).filterMap c.slots.look

/-- The number of fragments that a context has received (R83). -/
def fragmentsOf (c : Context) : Nat := (List.finRange 16).countP c.received.look

/-- The context count of link `L`: the entries that are IN_USE for it (R65). -/
def contextsOf (L : Link) (s : State) : Nat :=
  (List.finRange 32).countP fun e => decide ((s.context e).map (·.link) = some L)

/-- The inbound hold of link `L`: the blocks in the slots of its contexts and in the chains of its READY and SERVICE
messages (R36). -/
def holdOf (L : Link) (s : State) : Nat :=
  ((List.finRange 32).map fun e =>
    (s.context e).elim 0 fun c => if c.link = L then (blocksOf c).length else 0).sum +
  ((List.finRange 96).map fun d =>
    if (s.desc d).link = L ∧ ((s.desc d).state = .ready ∨ (s.desc d).state = .service) then (s.desc d).chain.length
    else 0).sum

/-- The pool grants a reassembly claim for link `L` (R38). -/
def BlockGranted (L : Link) (s : State) : Prop :=
  s.pool.reserve < s.pool.freeList.length ∧ holdOf L s < s.pool.ceiling.look L

/-- The pool after a block has been taken from the head of the free list and the bytes stored in it: `t` has the rest
of the free list, and differs from `s` in the block's bytes and used length alone (R33, R38, R78). -/
structure StoredIn (b : BlockNo) (bytes : List Byte) (s t : Pool) : Prop where
  list : s.freeList = b :: t.freeList
  used : t.usedLength = s.usedLength.put b bytes.length
  inside : ∀ o, (h : o < bytes.length) → Memory.read t.blocks ((64 * b.val + o)) = bytes[o]
  outside : ∀ a, (∀ o < bytes.length, a ≠ 64 * b.val + o) → Memory.read t.blocks a = Memory.read s.blocks a
  rest : t = { s with freeList := t.freeList, usedLength := t.usedLength, blocks := t.blocks }

/-- The pool after the blocks of a list have been returned in order (R34). -/
structure Returned (bs : List BlockNo) (s t : Pool) : Prop where
  list : t.freeList = s.freeList ++ bs
  used : ∀ b, t.usedLength.look b = if b ∈ bs then 0 else s.usedLength.look b
  rest : t = { s with freeList := t.freeList, usedLength := t.usedLength }

/-- The descriptors of `t` are those of `s`, but for descriptor `d`, which is `x`. -/
def OnlyDescriptor (d : DescNo) (x : Descriptor) (s t : State) : Prop :=
  t.desc d = x ∧ ∀ d', d' ≠ d → t.desc d' = s.desc d'

/-- A line record that no longer names message `d`; its fragment number is kept (R151). -/
def unnamed (d : DescNo) (r : Option LineRecord) : Option LineRecord :=
  r.map fun r => if r.descriptor = some d then { r with descriptor := none } else r

/-- Message `d` is the first outstanding one of link `L` with the peer and the tag given (R152). -/
def Matches (L : Link) (origin : Byte) (tag : Tag) (d : DescNo) (s : State) : Prop :=
  ∃ older younger, (s.sch L).outstanding = older ++ d :: younger ∧
    ((s.desc d).peer = origin ∧ (s.desc d).tag = some tag) ∧
    ∀ d' ∈ older, ¬ ((s.desc d').peer = origin ∧ (s.desc d').tag = some tag)

/-- No outstanding message of link `L` has the peer and the tag given (R155). -/
abbrev MatchesNone (L : Link) (origin : Byte) (tag : Tag) (s : State) : Prop :=
  ∀ d ∈ (s.sch L).outstanding, ¬ ((s.desc d).peer = origin ∧ (s.desc d).tag = some tag)

/-- Message `d` is the first outstanding one of link `L` that is SENDING (R145, R147). -/
def Sending (L : Link) (d : DescNo) (s : State) : Prop :=
  ∃ older younger, (s.sch L).outstanding = older ++ d :: younger ∧ (s.desc d).state = .sending ∧
    ∀ d' ∈ older, (s.desc d').state ≠ .sending

/-- No outstanding message of link `L` is SENDING. -/
abbrev SendsNone (L : Link) (s : State) : Prop := ∀ d ∈ (s.sch L).outstanding, (s.desc d).state ≠ .sending

/-- The scheduler of a link without a message: in no list, and not named by the line record (R151, R153). -/
def without (d : DescNo) (x : Scheduler) : Scheduler :=
  { x with
    outboundQueue := x.outboundQueue.filter (· ≠ d)
    resendOrder := x.resendOrder.filter (· ≠ d)
    outstanding := x.outstanding.filter (· ≠ d)
    lineRecord := unnamed d x.lineRecord }

/-- The TX_FAILED record of a message of link `L` (R160). -/
def failedNotice (L : Link) (d : DescNo) (reason : FailReason) (s : State) : Notice :=
  ⟨L, s.now, .txFailed (s.desc d).peer ((s.desc d).tag.getD 0) (s.desc d).reference (s.desc d).attempts reason⟩

/-- The TX_DONE record of a message of link `L` (R159). -/
def doneNotice (L : Link) (d : DescNo) (s : State) : Notice :=
  ⟨L, s.now, .txDone (s.desc d).peer ((s.desc d).tag.getD 0) (s.desc d).reference (s.desc d).attempts⟩

/-- Message `d` of link `L` has ended in `t` with the notice queue given: its chain is returned, its descriptor is
cleared and its scheduler no longer knows it; everything else is as in `s`, but for the ports given (R43, R52, R159). -/
structure Ended (L : Link) (d : DescNo) (q : NoticeQueue) (ports : Table LinkPort 4) (s t : State) : Prop where
  pool : Returned (s.desc d).chain s.pool t.pool
  descriptor : OnlyDescriptor d .cleared s t
  sched : t.sched = s.sched.put L (without d (s.sch L))
  rest : t = { s with
    pool := t.pool, sched := t.sched, notices := q, ports := ports,
    table := { s.table with descriptors := t.table.descriptors } }

/-- Message `d` of link `L` waits to be sent again (R156, R157, R163). -/
def Resent (L : Link) (d : DescNo) (s t : State) : Prop :=
  t = { s with
    table := { s.table with
      descriptors := s.table.descriptors.put d { s.desc d with state := .resend, position := 0, deadline := none } }
    sched := s.sched.put L { s.sch L with
      resendOrder := (s.sch L).resendOrder ++ [d]
      lineRecord := unnamed d (s.sch L).lineRecord } }

/-- The blocks that the contexts of link `L` hold, in the order in which they are returned (R42, R86). -/
def contextBlocks (L : Link) (s : State) : List BlockNo :=
  (List.finRange 32).flatMap fun e => (s.context e).elim [] fun c => if c.link = L then blocksOf c else []

/-- The blocks of the chains of messages, one message after another (R44). -/
def chainsOf (ds : List DescNo) (s : State) : List BlockNo := ds.flatMap fun d => (s.desc d).chain

/-- Descriptor `d` is held by a context of link `L`. -/
def assemblingOn (L : Link) (d : DescNo) (s : State) : Prop := ∃ e c, s.context e = some c ∧ c.link = L ∧ c.descriptor = d

/-- The payload of fragment `n` of a message: bytes of block `n` of its chain, byte `o` of block `b` at `64 * b + o`;
64 of them for every fragment but the last, and for the last what is left of the length (R15, R148). -/
def fragmentBytes (m : List Host.Cell) (x : Descriptor) (n : Nat) : List Byte :=
  let fragments := x.fragmentCount.getD 1
  (x.chain[n]?).elim [] fun b =>
    (List.range (if n + 1 = fragments then x.length - 64 * (fragments - 1) else 64)).map fun o =>
      Memory.read m (64 * b.val + o)

/-- The bytes of the DATA frame of a message's fragment at its position (R4, R5, R15, section 11.7): the final flag is
set exactly on the fragment whose number is one less than the fragment count. -/
def dataBytes (own : Nat) (m : List Host.Cell) (x : Descriptor) : List Byte :=
  let payload := fragmentBytes m x x.position
  let final := if x.position + 1 = x.fragmentCount.getD 1 then 128 else 0
  let body : List Byte := [0x31, x.peer, BitVec.ofNat 8 own, BitVec.ofNat 8 ((x.tag.map Fin.val).getD 0),
    BitVec.ofNat 8 (x.position + final), BitVec.ofNat 8 payload.length] ++ payload
  framed body

/-- The addresses of the settings that one byte holds (section 11.5). -/
def addressOf : Setting → Nat
  | .prescale => 0x2C
  | .ageStep => 0x2D
  | .composeReserve => 0x31
  | .noticeWeight => 0x34
  | .threshold => 0x35
  | .attentionEnable => 0x36
  | .stationAddress => 0x41
  | .acceptBroadcast => 0x42
  | .lineRate => 0x43
  | .contextQuota => 0x44
  | .reassemblyLifetime => 0x45
  | .linkWeight => 0x4C
  | .outstandingLimit => 0x4D
  | .attemptLimit => 0x4E
  | .ackWait => 0x4F
  | .refuseBackoff => 0x50
  | .reportDone => 0x51

/-- The range, the lock and the floor of each setting for a write of `v`, in the page of link `L` (sections 1.1, 9.2 and
11.5): a setting of the link page marked "in OFF" is locked outside OFF. -/
def writable (L : Link) (s : State) (v : Nat) : Setting → Prop
  | .prescale | .ageStep | .threshold => v ≤ 255
  | .composeReserve => v ≤ 64
  | .noticeWeight | .linkWeight => v ≤ 7
  | .attentionEnable | .acceptBroadcast | .reportDone => v ≤ 1
  | .stationAddress => v ≤ 254 ∧ (s.port L).state = .off
  | .lineRate => v ≤ 7 ∧ (s.port L).state = .off
  | .contextQuota => 1 ≤ v ∧ v ≤ 32 ∧ (s.port L).state = .off
  | .reassemblyLifetime | .ackWait | .refuseBackoff => 1 ≤ v ∧ v ≤ 255
  | .outstandingLimit => 1 ≤ v ∧ v ≤ 4 ∧ (s.port L).state = .off ∧ (s.sch L).outstanding.length ≤ v
  | .attemptLimit => 1 ≤ v ∧ v ≤ 15 ∧ (s.port L).state = .off ∧ ∀ d, (s.desc d).link = L →
      (((s.desc d).state = .sending ∨ (s.desc d).state = .awaitAck) → (s.desc d).attempts ≤ v) ∧
      (((s.desc d).state = .backoff ∨ (s.desc d).state = .resend) → (s.desc d).attempts < v)

/-- The fields of the service window, by address, while a message is held (R122, section 11.5); the others read 0. -/
def messageFields (source : Link) (bid : Nat) (x : Descriptor) : Nat → Nat
  | 0x10 => 1
  | 0x11 => source.val
  | 0x12 => bid
  | 0x14 => x.link.val
  | 0x15 => x.peer.toNat
  | 0x16 => if x.broadcast = true then 1 else 0
  | 0x17 => (x.tag.map Fin.val).getD 0
  | 0x18 => x.length % 256
  | 0x19 => x.length / 256
  | 0x1A => x.fragmentCount.getD 0
  | 0x1B => ((x.stamp.map BitVec.toNat).getD 0) % 256
  | 0x1C => ((x.stamp.map BitVec.toNat).getD 0) / 256
  | 0x1D => x.age
  | _ => 0

/-- The fields of the service window that a kind of notice carries, by address (R123, sections 11.5 and 11.6); a field
that the kind does not carry reads 0. -/
def kindFields : NoticeBody → Nat → Nat
  | .txDone peer tag reference attempts, a =>
    match a with
    | 0x13 => 1 | 0x15 => peer.toNat | 0x17 => tag.val | 0x1E => reference.toNat | 0x1F => attempts | _ => 0
  | .txFailed peer tag reference attempts reason, a =>
    match a with
    | 0x13 => 2 | 0x15 => peer.toNat | 0x17 => tag.val | 0x1E => reference.toNat | 0x1F => attempts
    | 0x20 => match reason with
      | .noAck => 1
      | .refusedNoContext => 2
      | .refusedNoBlock => 3
      | .stoppedAtLimit => 4
    | _ => 0
  | .rxExpired peer tag received, a =>
    match a with
    | 0x13 => 3 | 0x15 => peer.toNat | 0x17 => tag.val | 0x21 => received | _ => 0
  | .rxMalformed peer tag received, a =>
    match a with
    | 0x13 => 4 | 0x15 => peer.toNat | 0x17 => tag.val | 0x21 => received | _ => 0
  | .linkStopped contexts, a => match a with | 0x13 => 5 | 0x21 => contexts | _ => 0
  | .linkReset contexts readyMessages outbound, a =>
    match a with
    | 0x13 => 6 | 0x21 => contexts | 0x22 => readyMessages | 0x23 => outbound | _ => 0

/-- The fields of the service window, by address, while a notice is held: those of every notice, and those of its
kind. -/
def noticeFields (bid : Nat) (n : Notice) : Nat → Nat
  | 0x10 => 2
  | 0x11 => 4
  | 0x12 => bid
  | 0x14 => n.link.val
  | 0x1B => n.stamp.toNat % 256
  | 0x1C => n.stamp.toNat / 256
  | a => kindFields n.body a

/-- The service window, 10h to 23h, shows the fields given, each as a byte. -/
def shows (s : State) (fields : Nat → Nat) : Prop :=
  ∀ a : BitVec 7, 0x10 ≤ a.toNat → a.toNat ≤ 0x23 → windowRead s a = BitVec.ofNat 8 (fields a.toNat)

end Sys2Proof.Statement

open Sys2Proof.Statement

/-! ### Steps, reset and initialisation -/

/-- A step runs the command at the front of the queue on the state with the queue's rest (log entry 23). -/
def Obligations.StepRunsTheFrontCommand : Prop :=
  ∀ (c : Instr) (rest : List Instr) (s : State), s.pending = c :: rest → step s = exec c { s with pending := rest }

/-- Every command ends in a next state, in every state, and leaves the queue of commands that wait as it is. This is the
model's choice: the spec describes no fault (log entry 25), an event without its cause does nothing (3), states that no
run reaches have a next state too (21), and the queue is the model's own (23). -/
def Obligations.CommandsLeaveTheQueue : Prop :=
  ∀ (c : Instr) (s : State), ∃ t, exec c s = .next t ∧ t.pending = s.pending

/-- Steps on an empty queue are reference periods (the model's choice, log entry 2), at which the input pins take
their next levels (log entry 26). With the pins as they are, the period of the host bus is followed, unless RESET is
low, by those of the time base, of an age pulse still to be taken, of the rebuild, and of the links 0 to 3, each
link's transmitter before its hand-off and its receiver (log entry 2). The rebuild places one block per period, in
ascending order, and the part is READY after 512 of them (R45, R190). The period count rises by one each period, and
the period that reaches the interval length is the tick, whatever expiries are due (R23). An access at the pins (R178;
log entries 15, 16 and 27): a write of any address is taken when WR returns high with CS low, and a read of any
address when CS and RD first become low together. Each then has, once, the effect of its command, as if the pins
stayed as they are. A read drives the value of its address until RD or CS returns high, and the data lines are never
driven otherwise. With CS, RD and WR all low together the access is ignored until it ends, and so is one that a
falling RESET line has made void (R188). -/
def Obligations.IdleStepsAreReferencePeriods : Prop :=
  (∀ s : State, s.pending = [] → (s.inputs.coming = [] ∨ s.inputs.coming.head? = some s.inputs.pins) →
    (s.host.resetLow = true → step s = .next (steady s)) ∧
    (s.host.resetLow = false →
      let link (L : Link) (u : State) : State := receiverPeriod L (handOffPeriod L (transmitterPeriod L u))
      ∀ u, exec .agePulse (countPeriod (steady s)) = .next u →
        step s = .next (link 3 (link 2 (link 1 (link 0 (placeBlock u))))))) ∧
  (∀ s : State,
    (s.time.periodCount + 1 < s.time.intervalLength →
      countPeriod s = { s with time := { s.time with periodCount := s.time.periodCount + 1 } }) ∧
    (∀ t, s.time.intervalLength ≤ s.time.periodCount + 1 → exec .tick s = .next t → countPeriod s = t) ∧
    ((s.host.device = .ready ∨ s.host.resetLow = true) → placeBlock s = s) ∧
    (∀ k t, s.host.device = .initialising → s.host.resetLow = false →
      s.pool.freeList = (List.finRange 512).take k →
      (k + 1 < 512 → placeBlock s = { s with pool := { s.pool with freeList := (List.finRange 512).take (k + 1) } }) ∧
      (k + 1 = 512 → exec .freeListRebuilt s = .next t → placeBlock s = t))) ∧
  (∀ (s : State) (n : Nat), s.pending = [] → s.host.resetLow = false → s.inputs.coming = [] →
    (s.host.device = .initialising → QuietWhileInitialising s → s.pool.freeList = [] → n ≤ 512 →
      ∃ t : State, Host.Core.run Sys2Proof.core n s = .next t ∧ t.pool.freeList = (List.finRange 512).take n ∧
        t.host.device = if n < 512 then .initialising else .ready) ∧
    (s.time.periodCount + n < s.time.intervalLength →
      ∃ t : State, Host.Core.run Sys2Proof.core n s = .next t ∧ t.time.periodCount = s.time.periodCount + n ∧
        t.now = s.now) ∧
    (0 < n → s.time.periodCount + n = s.time.intervalLength →
      ∃ t : State, Host.Core.run Sys2Proof.core n s = .next t ∧ t.time.periodCount = 0 ∧ t.now = s.now + 1 ∧
        t.time.intervalLength = 4096 * (s.time.prescale + 1))) ∧
  (∀ (s : State) (p : Pins) (rest : List Pins), s.pending = [] → s.inputs.coming = p :: rest →
    let old := s.inputs.pins
    let goesOn (u : State) (voided : Bool) (bus : Option Byte) : Prop :=
      ∃ t, step s = .next t ∧ step { u with inputs := ⟨p, p :: rest, voided⟩ } = .next t ∧ t.host.dataBus = bus
    let quiet : State := { s with host := { s.host with dataBus := none } }
    (s.inputs.voided = false →
      (∀ u, old.cs = .low → old.wr = .low → p.cs = .low → p.wr = .high → p.rd = .high →
        exec (.configurationWrite p.address p.data) s = .next u → goesOn u false none) ∧
      ((old.cs = .high ∨ old.rd = .high) → (old.cs = .high ∨ old.wr = .high) →
        p.cs = .low → p.rd = .low → p.wr = .high →
        (∀ c u, readAddress c = some p.address → exec c s = .next u → goesOn u false (some (windowRead s p.address))) ∧
        ((∀ c, readAddress c ≠ some p.address) →
          goesOn { s with host := { s.host with dataBus := some (windowRead s p.address) } } false
            (some (windowRead s p.address)))) ∧
      (old.cs = .low → old.rd = .low → old.wr = .high → p.cs = .low → p.rd = .low → p.wr = .high →
        goesOn s false s.host.dataBus) ∧
      ((p.cs = .high ∨ (p.rd = .high ∧ (p.wr = .low ∨ old.cs = .high ∨ old.wr = .high))) →
        goesOn quiet false none)) ∧
    (p.cs = .low → p.rd = .low → p.wr = .low → goesOn quiet true none) ∧
    (s.inputs.voided = true →
      goesOn quiet (decide (p.cs = .low ∧ (p.rd = .low ∨ p.wr = .low))) none))

/-- RESET_LINE_LOW, and DEVICE_RESET in READY, put the whole part in its reset state (sections 11.4 and 11.5). The
model's choices among its values are those of log entries 6, 10, 11, 13, 15, 22, 23, 26, 27 and 28, as `InResetState`
names them. -/
def Obligations.DeviceResetReturnsEveryValue : Prop :=
  (∀ s : State, ∃ t, exec .resetLineLow s = .next t ∧ InResetState true s t) ∧
  (∀ s : State, s.operational → ∃ t, exec .deviceReset s = .next t ∧ InResetState false s t)

/-- RESET_LINE_HIGH ends the held interval, and FREE_LIST_REBUILT ends initialisation with every block on the free list
in ascending order (R45, R188, R190). That FREE_LIST_REBUILT places every block not yet placed, from whatever point the
rebuild has reached, is the model's choice (log entry 7). -/
def Obligations.ResetLineHighAndFreeListRebuilt : Prop :=
  (∀ s : State, exec .resetLineHigh s = .next { s with host := { s.host with resetLow := false } }) ∧
  (∀ (s : State) (k : Nat), s.host.device = .initialising → s.host.resetLow = false →
    s.pool.freeList = (List.finRange 512).take k →
    exec .freeListRebuilt s = .next { s with
      pool := { s.pool with freeList := List.finRange 512 }
      host := { s.host with device := .ready } })

/-- During initialisation every command code is answered with NOT_READY, and in READY a code that is not in the command
table is refused with UNKNOWN; nothing else changes (R182, R190). -/
def Obligations.CommandsAreNotReadyOrUnknown : Prop :=
  (∀ (c : Instr) (code : Byte) (s : State), commandCode c = some code → s.host.device = .initialising →
    s.host.resetLow = false → exec c s = .next { s with host := answered code .notReady s }) ∧
  (∀ (s : State) (code : Byte), s.operational → (Instr.unknownCommand code).wellFormed = true →
    exec (.unknownCommand code) s = .next { s with host := answered code .unknown s })

/-- While the RESET line is held low every write is ignored (R188), and a read drives the value of its address and
changes nothing else (log entry 14). -/
def Obligations.AccessesWhileTheResetLineIsLow : Prop :=
  ∀ (c : Instr) (s : State), s.host.resetLow = true →
    (((commandCode c).isSome ∨ isDataWrite c = true) → exec c s = .next s) ∧
    (∀ a, readAddress c = some a →
      exec c s = .next { s with host := { s.host with dataBus := some (windowRead s a) } })

/-- An event command whose cause does not hold changes nothing (the model's choice, log entry 3; entry 14 says when the
cause of a gap's end waits). -/
def Obligations.EventsWithoutTheirCauseChangeNothing : Prop :=
  ∀ (c : Instr) (s : State), causeless s c → exec c s = .next s

/-! ### Time -/

/-- TICK: the period count restarts, the new interval has the length that the prescale gives, the counter advances
modulo 65536, and the divider advances or produces an age pulse (R23, R25, R29). Nothing delays it: the expiries still
due are taken first, with now equal to their deadline, and none is due when the counter advances (R28). AGE_PULSE: the
age of every READY message rises by 1 and stops at 31; other descriptors and the order of the ready queues are kept
(R30). The model's choices: TICK is taken at any period count (log entry 4), the order of the expiries taken before it
(log entry 5), and a pulse produced waits in `agePulses` until AGE_PULSE or a reference period takes it
(log entry 6). -/
def Obligations.TickAndAgePulse : Prop :=
  (∀ s : State, s.host.resetLow = false →
    ∃ u t, inTurn everyExpiry s u ∧ ¬ Due u ∧ (¬ Due s → u = s) ∧ exec .tick s = .next t ∧
      t = { u with time := t.time } ∧
      t.time.periodCount = 0 ∧ t.time.intervalLength = 4096 * (s.time.prescale + 1) ∧
      t.time.tickCounter.toNat = (s.time.tickCounter.toNat + 1) % 65536 ∧
      t.time.prescale = s.time.prescale ∧ t.time.ageStep = s.time.ageStep ∧ t.time.highLatch = s.time.highLatch ∧
      (s.time.ageStep = 0 → t.time.divider = s.time.divider ∧ t.time.agePulses = s.time.agePulses) ∧
      (s.time.ageStep ≠ 0 → s.time.divider + 1 = s.time.ageStep →
        t.time.divider = 0 ∧ t.time.agePulses = s.time.agePulses + 1) ∧
      (s.time.ageStep ≠ 0 → s.time.divider + 1 ≠ s.time.ageStep →
        t.time.divider = s.time.divider + 1 ∧ t.time.agePulses = s.time.agePulses)) ∧
  (∀ s : State, 0 < s.time.agePulses →
    ∃ t, exec .agePulse s = .next t ∧
      (∀ d, (s.desc d).state = .ready → t.desc d = { s.desc d with age := min 31 ((s.desc d).age + 1) }) ∧
      (∀ d, (s.desc d).state ≠ .ready → t.desc d = s.desc d) ∧
      t = { s with
        table := { s.table with descriptors := t.table.descriptors }
        time := { s.time with agePulses := s.time.agePulses - 1 } })

/-- A write of n (n ≥ 1) to the age-step makes the first age pulse come at the n-th tick after it and not before
(R29), whatever expiries are due at the ticks. That a pulse waits in `agePulses` until AGE_PULSE or a
reference period takes it is the model's choice (log entry 6). -/
def Obligations.FirstAgePulseComesAtTheNthTick : Prop :=
  (∀ (t : TimeBase) (n : Nat), 1 ≤ n →
    let written := { t with ageStep := n, divider := 0 }
    (∀ m < n, (advanceTick^[m] written).agePulses = t.agePulses) ∧
    (advanceTick^[n] written).agePulses = t.agePulses + 1 ∧ (advanceTick^[n] written).divider = 0) ∧
  (∀ (s : State) (n : Byte), 1 ≤ n.toNat → s.host.resetLow = false →
    let after (m : Nat) (t : State) : Prop :=
      Host.Core.run Sys2Proof.core (m + 1)
        { s with pending := .configurationWrite 0x2D n :: List.replicate m .tick } = .next t
    (∀ m < n.toNat, ∃ t : State, after m t ∧ t.time.agePulses = s.time.agePulses) ∧
    ∃ t : State, after n.toNat t ∧ t.time.agePulses = s.time.agePulses + 1)

/-- CONTEXT_LIFETIME_EXPIRY at the deadline: the context is abandoned, its blocks go back in ascending fragment number,
and RX_EXPIRED is recorded with the deadline as its stamp (R83). -/
def Obligations.ContextExpiryAbandonsTheContext : Prop :=
  ∀ (s : State) (e : EntryNo) (c : Context), s.context e = some c → c.deadline = s.now →
    ∃ t, exec (.contextLifetimeExpiry e) s = .next t ∧
      t.context e = none ∧ (∀ e', e' ≠ e → t.context e' = s.context e') ∧
      Returned (blocksOf c) s.pool t.pool ∧ OnlyDescriptor c.descriptor .cleared s t ∧
      t.notices = offered ⟨c.link, c.deadline, .rxExpired c.origin c.tag (fragmentsOf c)⟩ s.notices ∧
      t = { s with
        pool := t.pool, notices := t.notices,
        table := { s.table with descriptors := t.table.descriptors },
        reasm := { s.reasm with contexts := t.reasm.contexts } }

/-- ACKNOWLEDGEMENT_WAIT_EXPIRY and REFUSE_BACKOFF_EXPIRY: below the attempt limit the message waits to be sent again;
an acknowledgement wait at the limit ends it as failed with reason NO_ACK (R156, R157). -/
def Obligations.ExpiriesOfOutboundMessages : Prop :=
  ∀ (s : State) (d : DescNo) (L : Link), (s.desc d).link = L → (s.desc d).deadline = some (.armed s.now) →
    ((s.desc d).state = .awaitAck → (s.desc d).attempts < (s.sch L).attemptLimit →
      ∃ t, exec (.acknowledgementWaitExpiry d) s = .next t ∧ Resent L d s t) ∧
    ((s.desc d).state = .awaitAck → (s.desc d).attempts = (s.sch L).attemptLimit →
      ∃ t, exec (.acknowledgementWaitExpiry d) s = .next t ∧
        Ended L d (offered (failedNotice L d .noAck s) s.notices) s.ports s t) ∧
    ((s.desc d).state = .backoff → ∃ t, exec (.refuseBackoffExpiry d) s = .next t ∧ Resent L d s t)

/-! ### The receiver -/

/-- CHARACTER_RECEIVED, CHARACTER_ERROR and SETTLING_GAP_END in each state of the receiver (R7, R8). TRUNCATION,
CHARACTER_ERROR and OVERSIZED_PAYLOAD_LENGTH discard the frame being received and count one format error; after an idle
gap the receiver hunts, and otherwise it settles (R8, R9). The receiver samples its line every 2^(7 − line rate)
reference periods: what the samples end in is received, mark counts towards an idle gap of 320 samples (from the middle
of a stop bit 327, the 7 that are left of that bit before them) while SETTLING lasts or a frame is incomplete, and a
frame then complete or oversized is finished at once (R2, R3, R7 to R9). A frame whose end is due when a character or a
character error comes is finished before it (R8). A character on the line and mark for twenty bit
times after its stop bit, and not for less, end SETTLING or an incomplete frame (R2, R7, R9). The model's choices: the
end of a frame is an event of its own, taken at the latest before the next character (log entry 9), and how the line is
sampled and an idle gap counted in samples (log entry 28). -/
def Obligations.ReceiverTakesCharactersAndDiscardsDamage : Prop :=
  ∀ (s : State) (L : Link) (b : Byte),
    let p := s.port L
    let with_ (q : LinkPort) : State := { s with ports := s.ports.put L q }
    let unfinished := p.receiver = .frame ∧ Unfinished p.rxBuffer
    let damaged (r : ReceiverState) (gap : Nat) : LinkPort :=
      counted .formatErrors { p with receiver := r, rxBuffer := [], idleLeft := gap }
    (unfinished →
      exec (.truncation L) s = .next (with_ (damaged .hunt p.idleLeft)) ∧
      exec (.characterError L) s = .next (with_ (damaged .settling 320)) ∧
      exec (.characterReceived L b) s = .next (with_ { p with rxBuffer := p.rxBuffer ++ [b], idleLeft := 327 })) ∧
    (p.receiver = .frame → Oversized p.rxBuffer →
      exec (.oversizedPayloadLength L) s = .next (with_ (damaged .settling 320))) ∧
    (p.receiver = .frame → ¬ Unfinished p.rxBuffer →
      ∀ u v, exec (.rxFrameComplete L) s = .next u → exec (.oversizedPayloadLength L) u = .next v →
        exec (.characterReceived L b) s = exec (.characterReceived L b) v ∧
        exec (.characterError L) s = exec (.characterError L) v) ∧
    (p.receiver = .disabled → exec (.characterReceived L b) s = .next s) ∧
    (p.receiver = .settling →
      exec (.characterReceived L b) s = .next (with_ { p with idleLeft := 327 }) ∧
      exec (.characterError L) s = .next (with_ { p with idleLeft := 320 }) ∧
      exec (.settlingGapEnd L) s = .next (with_ { p with receiver := .hunt })) ∧
    (p.receiver = .hunt → b ≠ 0xA6 → exec (.characterReceived L b) s = .next s) ∧
    (p.receiver = .hunt → b = 0xA6 →
      exec (.characterReceived L b) s =
        .next (with_ { p with receiver := .frame, rxBuffer := [0xA6], idleLeft := 327 })) ∧
    (p.sampleCount + 1 < 2 ^ (7 - p.lineRate) →
      receiverPeriod L s = with_ { p with sampleCount := p.sampleCount + 1 }) ∧
    (2 ^ (7 - p.lineRate) ≤ p.sampleCount + 1 →
      ∀ x e, sampleLine (s.inputs.pins.rxd.look L) p.sampler = (x, e) →
        let q : LinkPort := { p with sampleCount := 0, sampler := x }
        let finished (u : State) : Prop := ∀ v t,
          exec (.rxFrameComplete L) u = .next v → exec (.oversizedPayloadLength L) v = .next t → receiverPeriod L s = t
        let idle := s.inputs.pins.rxd.look L = .high ∧
          (x = .waitMark ∨ x = .waitStart ∨ ∃ n data, x = .character n data ∧ n < 8)
        (∀ c u, e = some (.character c) → exec (.characterReceived L c) (with_ q) = .next u → finished u) ∧
        (∀ u, e = some .error → exec (.characterError L) (with_ q) = .next u → finished u) ∧
        (e = none → ¬ (idle ∧ (p.receiver = .settling ∨ unfinished)) → finished (with_ q)) ∧
        (e = none → idle → (p.receiver = .settling ∨ unfinished) → 1 < p.idleLeft →
          receiverPeriod L s = with_ { q with idleLeft := p.idleLeft - 1 }) ∧
        (e = none → idle → p.receiver = .settling → p.idleLeft ≤ 1 →
          receiverPeriod L s = with_ { q with receiver := .hunt, idleLeft := 0 }) ∧
        (e = none → idle → unfinished → p.idleLeft ≤ 1 →
          receiverPeriod L s =
            with_ (counted .formatErrors { q with receiver := .hunt, rxBuffer := [], idleLeft := 0 }))) ∧
    (p.sampler = .waitStart → p.sampleCount = 0 →
      let gap := 20 * (16 * 2 ^ (7 - p.lineRate))
      let quiet (n : Nat) : LinkPort :=
        (hearing L (held p.lineRate (tenBits b .high) ++ List.replicate n .high) s).port L
      (p.receiver = .settling →
        (∀ n < gap, (quiet n).receiver = .settling) ∧ (quiet gap).receiver = .hunt) ∧
      (p.receiver = .frame → Unfinished (p.rxBuffer ++ [b]) →
        (∀ n < gap, (quiet n).receiver = .frame ∧ (quiet n).rxBuffer = p.rxBuffer ++ [b]) ∧
        (quiet gap).receiver = .hunt ∧ (quiet gap).rxBuffer = [] ∧
        (quiet gap).counters = (counted .formatErrors p).counters))

/-- RX_FRAME_COMPLETE: a bad check counts a check error whatever else the frame holds, a good frame that breaks a
format condition counts one format error, a well-formed frame that fails the address filter changes no counter, and an
accepted one is handed over; the receiver hunts again (R8, R10 to R13). The check is good exactly when the two bytes
after the payload are the high and the low byte of the CRC over the bytes from the kind to the payload (R6, R10). The
fields stand at their offsets (R4, section 11.7), and what is handed over is what R13 lists. A frame handed over is
taken within one character time, and before the next frame of its link completes (R13): by the events of its block,
and otherwise at the end of that time by itself, which is the model's choice of the moment (log entry 10). -/
def Obligations.CompleteFramesAreClassified : Prop :=
  (∀ (s : State) (L : Link), (s.port L).receiver = .frame → Complete (s.port L).rxBuffer →
    ∃ u, inTurn (takings L) s u ∧ ((s.port L).handedOver = none → u = s) ∧
    let p : LinkPort := { u.port L with receiver := .hunt, rxBuffer := [] }
    let bytes := (s.port L).rxBuffer
    let n := declared bytes
    let crc := check ((bytes.drop 1).take (6 + n))
    let good := (bytes.getD (7 + n) 0).toNat = crc.toNat / 256 ∧ (bytes.getD (8 + n) 0).toNat = crc.toNat % 256
    let f : Frame :=
      ⟨bytes.getD 1 0, bytes.getD 2 0, bytes.getD 3 0, bytes.getD 4 0, bytes.getD 5 0, (bytes.drop 7).take n⟩
    let tag : Tag := Fin.ofNat 64 f.tag.toNat
    let handed : HandedFrame :=
      if f.kind = 0x32 then .ack f.origin tag
      else if f.kind = 0x33 then .refuse f.origin tag (if f.payload = [1] then .noContext else .noBlock)
      else .data ⟨f.origin, decide (f.destination = 255), tag, Fin.ofNat 16 f.fragmentByte.toNat,
        decide (128 ≤ f.fragmentByte.toNat), f.payload⟩
    let broken := breaksFormat (s.port L).stationAddress f = true
    let mine := passesFilter (s.port L).stationAddress (s.port L).acceptBroadcast f = true
    let gives (q : LinkPort) : Prop := exec (.rxFrameComplete L) s = .next { u with ports := u.ports.put L q }
    (¬ good → gives (counted .checkErrors p)) ∧
    (good → broken → gives (counted .formatErrors p)) ∧
    (good → ¬ broken → ¬ mine → gives p) ∧
    (good → ¬ broken → mine → gives { p with handedOver := some handed, handedPeriods := 0 })) ∧
  (∀ (s : State) (L : Link),
    let p := s.port L
    let characterTime := 10 * (16 * 2 ^ (7 - p.lineRate))
    (p.handedOver = none → handOffPeriod L s = s) ∧
    (p.handedOver ≠ none → p.handedPeriods + 1 < characterTime →
      handOffPeriod L s = { s with ports := s.ports.put L { p with handedPeriods := p.handedPeriods + 1 } }) ∧
    (p.handedOver ≠ none → characterTime ≤ p.handedPeriods + 1 →
      ∃ u, inTurn (takings L) s u ∧ handOffPeriod L s = u ∧ (p.state = .run → (u.port L).handedOver = none)))

/-- The format conditions of R11 and the address filter of R12, in the numbers of the frame's fields. -/
def Obligations.FormatAndFilterAreTheListedConditions : Prop :=
  ∀ (own : Nat) (accept : Bool) (f : Frame),
    (breaksFormat own f = true ↔
      ((f.kind ≠ 0x31 ∧ f.kind ≠ 0x32 ∧ f.kind ≠ 0x33) ∨
        63 < f.tag.toNat ∨
        (f.fragmentByte.toNat / 16) % 8 ≠ 0 ∨
        (f.origin.toNat = 0 ∨ f.origin.toNat = 255 ∨ f.origin.toNat = own) ∨
        f.destination.toNat = 0 ∨
        (f.kind = 0x32 ∧ (f.payload ≠ [] ∨ f.fragmentByte.toNat ≠ 0)) ∨
        (f.kind = 0x33 ∧ ((f.payload ≠ [1] ∧ f.payload ≠ [2]) ∨ f.fragmentByte.toNat ≠ 0)) ∨
        ((f.kind = 0x32 ∨ f.kind = 0x33) ∧ f.destination.toNat = 255) ∨
        (f.kind = 0x31 ∧ f.fragmentByte.toNat < 128 ∧ f.payload.length ≠ 64) ∨
        (f.kind = 0x31 ∧ 128 ≤ f.fragmentByte.toNat ∧ f.payload = [] ∧ f.fragmentByte.toNat % 16 ≠ 0))) ∧
    (passesFilter own accept f = true ↔
      (f.destination.toNat = own ∨ (f.kind = 0x31 ∧ f.destination.toNat = 255 ∧ accept = true)))

/-- Every frame that the transmitter of one station builds under R15 is complete when its last byte has been received,
has a matching check, and is accepted by the station it is addressed to with exactly the fields that were sent. On the
line, a byte is a start bit at space, its bits least significant bit first, and a stop bit at mark. The transmit line
shows the bits of the frame in ACTIVE and rests at mark otherwise. A receiver that samples such characters, one directly
after another, takes exactly their bytes. A stop bit at space is a character error, and a line back at mark at the
middle of the start bit is ignored (R2, R3; that the middle is the sample eight samples after the first one at space is
the model's choice, log entry 28). -/
def Obligations.BuiltFramesAreAcceptedAsSent : Prop :=
  (∀ (sender own : Nat) (accept : Bool), 1 ≤ sender → sender ≤ 254 → 1 ≤ own → own ≤ 254 → sender ≠ own →
    let low (n : Nat) : Byte := BitVec.ofNat 8 n
    let arrives (broadcasts : Bool) (body : List Byte) (h : HandedFrame) : Prop :=
      Complete (framed body) ∧ (framed body).length = 9 + declared (framed body) ∧
      ∀ (s u : State) (L : Link), (s.port L).receiver = .frame → (s.port L).rxBuffer = framed body →
        (s.port L).stationAddress = own → (s.port L).acceptBroadcast = broadcasts → inTurn (takings L) s u →
        exec (.rxFrameComplete L) s = .next { u with ports := u.ports.put L { u.port L with
          receiver := .hunt, rxBuffer := [], handedOver := some h, handedPeriods := 0 } }
    (∀ (n : FragNo) (final : Bool) (tag : Tag) (payload : List Byte),
      (final = false → payload.length = 64) → (final = true → payload.length ≤ 64) → (payload = [] → n = 0) →
      let data (destination : Nat) : List Byte :=
        [0x31, low destination, low sender, low tag.val, low (n.val + if final = true then 128 else 0),
          low payload.length] ++ payload
      arrives accept (data own) (.data ⟨low sender, false, tag, n, final, payload⟩) ∧
      arrives true (data 255) (.data ⟨low sender, true, tag, n, final, payload⟩)) ∧
    (∀ tag : Tag,
      arrives accept [0x32, low own, low sender, low tag.val, 0, 0] (.ack (low sender) tag) ∧
      arrives accept [0x33, low own, low sender, low tag.val, 0, 1, 1] (.refuse (low sender) tag .noContext) ∧
      arrives accept [0x33, low own, low sender, low tag.val, 0, 1, 2] (.refuse (low sender) tag .noBlock))) ∧
  (∀ bytes : List Byte,
    heard .waitStart (sampled (bytes.flatMap fun b => tenBits b .high)) = (.waitStart, bytes.map .character)) ∧
  (∀ b : Byte, heard .waitStart (sampled (tenBits b .low)) = (.waitMark, [.error])) ∧
  (∀ low high : Nat, 1 ≤ low → low ≤ 8 → 9 ≤ low + high →
    heard .waitStart (List.replicate low .low ++ List.replicate high .high) = (.waitStart, [])) ∧
  (∀ (s : State) (L : Link), (s.port L).transmitter ≠ .active → s.txd L = .high) ∧
  (∀ (s : State) (L : Link) (i j : Nat) (b : Byte), (s.port L).transmitter = .active →
    (s.port L).txBuffer[i]? = some b → j < 10 →
    (s.port L).txPeriods / (16 * 2 ^ (7 - (s.port L).lineRate)) = 10 * i + j →
    (tenBits b .high)[j]? = some (s.txd L))

/-! ### Fragments -/

/-- FRAGMENT whose key is in the history: discarded, counted as a duplicate message, and answered with an ACK request
when it is final and unicast (R68). -/
def Obligations.FragmentOfACompletedMessage : Prop :=
  ∀ (s : State) (L : Link) (f : Fragment), Taking L f s → (⟨f.origin, f.tag⟩ : Key) ∈ s.history L →
    exec (.fragment L) s =
      .next { s with ports := s.ports.put L (replied .ack f (counted .duplicateMessages (taken (s.port L)))) }

/-- FRAGMENT whose number is in its context's received set: discarded and counted, whatever its final flag and payload,
and nothing else changes (R74). -/
def Obligations.DuplicateFragmentIsOnlyCounted : Prop :=
  ∀ (s : State) (L : Link) (f : Fragment) (e : EntryNo) (c : Context), Taking L f s → KnownKey L f e c s →
    c.received.look f.number = true →
    exec (.fragment L) s =
      .next { s with ports := s.ports.put L (counted .duplicateFragments (taken (s.port L))) }

/-- FRAGMENT without room. A new message without an entry, quota room or descriptor is dropped as NO_CONTEXT (R69, R70).
A fragment whose block claim is refused, for a new key (with the entry and the descriptor granted) or for an existing
context, is dropped as NO_BLOCK, with the message table and the context left exactly as they were (R69, R71, R77). -/
def Obligations.FragmentsWithoutRoomAreDropped : Prop :=
  ∀ (s : State) (L : Link) (f : Fragment), Taking L f s →
    let dropped (c : CounterName) (reason : RefuseReason) : LinkPort :=
      replied (.refuse reason) f (lossy (counted c (taken (s.port L))))
    (NewKey L f s →
      ((∀ e, s.context e ≠ none) ∨ s.reasm.quota.look L ≤ contextsOf L s ∨ ∀ d, (s.desc d).state ≠ .free) →
      exec (.fragment L) s = .next { s with ports := s.ports.put L (dropped .noContextDrops .noContext) }) ∧
    (HoldersSound s → f.payload ≠ [] → ¬ BlockGranted L s →
      ((NewKey L f s ∧ (∃ e, s.context e = none) ∧ contextsOf L s < s.reasm.quota.look L ∧
          ∃ d, (s.desc d).state = .free) ∨
        (∃ e c, KnownKey L f e c s ∧ c.received.look f.number = false ∧ ¬ Conflicts c f)) →
      exec (.fragment L) s = .next { s with ports := s.ports.put L (dropped .noBlockDrops .noBlock) })

/-- FRAGMENT that conflicts with its context by one of the three conditions of R75: the context is abandoned and
RX_MALFORMED is recorded; no counter, request or history changes (R75, R76). -/
def Obligations.MalformedMessageIsAbandoned : Prop :=
  ∀ (s : State) (L : Link) (f : Fragment) (e : EntryNo) (c : Context), Taking L f s → KnownKey L f e c s →
    c.received.look f.number = false →
    Conflicts c f →
    ∃ t, exec (.fragment L) s = .next t ∧
      t.context e = none ∧ (∀ e', e' ≠ e → t.context e' = s.context e') ∧
      Returned (blocksOf c) s.pool t.pool ∧ OnlyDescriptor c.descriptor .cleared s t ∧
      t.notices = offered ⟨L, s.now, .rxMalformed c.origin c.tag (fragmentsOf c)⟩ s.notices ∧
      t = { s with
        ports := s.ports.put L (taken (s.port L)), pool := t.pool, notices := t.notices,
        table := { s.table with descriptors := t.table.descriptors },
        reasm := { s.reasm with contexts := t.reasm.contexts } }

/-- FRAGMENT with a payload that creates a context in the lowest FREE entry and does not complete the message: the
lowest FREE descriptor is ASSEMBLING, the head block of the free list holds the payload in the fragment's slot, and the
deadline is a full lifetime away (R50, R72, R78). FRAGMENT stored in an existing context that it does not complete
(R78). -/
def Obligations.FragmentsAreStoredInTheirContexts : Prop :=
  (∀ (s : State) (L : Link) (f : Fragment) (e : EntryNo) (d : DescNo) (b : BlockNo),
      MemorySound s → Taking L f s → NewKey L f s →
      LowestEntry e s → contextsOf L s < s.reasm.quota.look L → LowestFree d s → f.payload ≠ [] →
      BlockGranted L s → s.pool.freeList.head? = some b → ¬ (f.final = true ∧ f.number = 0) →
      ∃ t, exec (.fragment L) s = .next t ∧
        StoredIn b f.payload s.pool t.pool ∧
        t.context e = some {
          link := L, origin := f.origin, tag := f.tag, descriptor := d,
          received := (Table.fill 16 false).put f.number true,
          final := if f.final = true then some f.number else none,
          slots := (Table.fill 16 none).put f.number (some b),
          deadline := s.now + BitVec.ofNat 16 (s.reasm.lifetime.look L) } ∧
        (∀ e', e' ≠ e → t.context e' = s.context e') ∧
        OnlyDescriptor d { Descriptor.cleared with
          state := .assembling, direction := some .inbound, link := L, peer := f.origin,
          broadcast := f.broadcast, tag := some f.tag } s t ∧
        t = { s with
          ports := s.ports.put L (taken (s.port L)), pool := t.pool,
          table := { s.table with descriptors := t.table.descriptors },
          reasm := { s.reasm with contexts := t.reasm.contexts } }) ∧
  (∀ (s : State) (L : Link) (f : Fragment) (e : EntryNo) (c : Context) (b : BlockNo), MemorySound s → Taking L f s →
      KnownKey L f e c s → c.received.look f.number = false → ¬ Conflicts c f → f.payload ≠ [] →
      BlockGranted L s → s.pool.freeList.head? = some b → (∀ last, ¬ WholeWith c f last) →
      ∃ t, exec (.fragment L) s = .next t ∧
        StoredIn b f.payload s.pool t.pool ∧
        t.context e = some { c with
          received := c.received.put f.number true,
          final := if f.final = true then some f.number else c.final,
          slots := c.slots.put f.number (some b) } ∧
        (∀ e', e' ≠ e → t.context e' = s.context e') ∧
        t = { s with
          ports := s.ports.put L (taken (s.port L)), pool := t.pool,
          reasm := { s.reasm with contexts := t.reasm.contexts } })

/-- FRAGMENT that is a whole new message: a final fragment 0 is completed in the event that takes it. Its descriptor
is READY at the tail of the ready queue with no block for an empty payload, and with the head block of the free list
otherwise; no context stays, the key is in the history, and a unicast message draws an ACK request (R69, R72, R78 to
R81, R91). -/
def Obligations.SingleFragmentMessageIsCompletedAtOnce : Prop :=
  ∀ (s : State) (L : Link) (f : Fragment) (e : EntryNo) (d : DescNo),
    MemorySound s → Taking L f s → NewKey L f s → LowestEntry e s → contextsOf L s < s.reasm.quota.look L →
    LowestFree d s → f.final = true → f.number = 0 →
    let completed (chain : List BlockNo) (t : State) : Prop :=
      OnlyDescriptor d { Descriptor.cleared with
        state := .ready, direction := some .inbound, link := L, peer := f.origin, broadcast := f.broadcast,
        tag := some f.tag, length := f.payload.length, fragmentCount := some 1, chain := chain,
        stamp := some s.now } s t ∧
      t.ready L = s.ready L ++ [d] ∧ (∀ L', L' ≠ L → t.ready L' = s.ready L') ∧
      t.history L = (if (s.history L).length < 16 then s.history L else (s.history L).tail) ++ [⟨f.origin, f.tag⟩] ∧
      (∀ L', L' ≠ L → t.history L' = s.history L') ∧
      t = { s with
        ports := s.ports.put L
          (if f.broadcast = true then taken (s.port L)
            else requested ⟨.ack, f.origin, f.tag⟩ (taken (s.port L))),
        pool := t.pool, table := t.table,
        reasm := { s.reasm with history := t.reasm.history } }
    (f.payload = [] → ∃ t, exec (.fragment L) s = .next t ∧ t.pool = s.pool ∧ completed [] t) ∧
    (∀ b, f.payload ≠ [] → BlockGranted L s → s.pool.freeList.head? = some b →
      ∃ t, exec (.fragment L) s = .next t ∧ StoredIn b f.payload s.pool t.pool ∧ completed [b] t)

/-- FRAGMENT that makes its context whole: the message is READY at the tail of the ready queue with the blocks of the
slots as its chain, the entry is FREE, the key is in the history, and a unicast message draws an ACK request (R79 to
R81, R91). -/
def Obligations.WholeMessageIsCompleted : Prop :=
  ∀ (s : State) (L : Link) (f : Fragment) (e : EntryNo) (c : Context) (b : BlockNo) (last : FragNo),
    MemorySound s → Taking L f s → KnownKey L f e c s →
    c.received.look f.number = false → ¬ Conflicts c f → f.payload ≠ [] → BlockGranted L s →
    s.pool.freeList.head? = some b →
    WholeWith c f last →
    ∃ t, exec (.fragment L) s = .next t ∧
      StoredIn b f.payload s.pool t.pool ∧
      OnlyDescriptor c.descriptor { s.desc c.descriptor with
        state := .ready
        length := 64 * last.val +
          (((c.slots.put f.number (some b)).look last).map t.pool.usedLength.look).getD 0
        fragmentCount := some (last.val + 1)
        chain := (List.finRange 16).filterMap (c.slots.put f.number (some b)).look
        stamp := some s.now
        age := 0 } s t ∧
      t.ready L = s.ready L ++ [c.descriptor] ∧ (∀ L', L' ≠ L → t.ready L' = s.ready L') ∧
      t.context e = none ∧ (∀ e', e' ≠ e → t.context e' = s.context e') ∧
      t.history L = (if (s.history L).length < 16 then s.history L else (s.history L).tail) ++ [⟨f.origin, f.tag⟩] ∧
      (∀ L', L' ≠ L → t.history L' = s.history L') ∧
      t = { s with
        ports := s.ports.put L
          (if (s.desc c.descriptor).broadcast = true then taken (s.port L)
            else requested ⟨.ack, f.origin, f.tag⟩ (taken (s.port L))),
        pool := t.pool, table := t.table,
        reasm := { s.reasm with contexts := t.reasm.contexts, history := t.reasm.history } }

/-! ### Outbound messages -/

/-- ACK_RECEIVED matching an outstanding message: the message ends as done in every outstanding state, with a TX_DONE
notice when report done is on (R153, R159). -/
def Obligations.AckEndsTheMatchedMessage : Prop :=
  ∀ (s : State) (L : Link) (origin : Byte) (tag : Tag) (d : DescNo),
    (s.port L).handedOver = some (.ack origin tag) → Matches L origin tag d s →
    ∃ t, exec (.ackReceived L) s = .next t ∧
      Ended L d (if (s.sch L).reportDone = true then offered (doneNotice L d s) s.notices else s.notices)
        (s.ports.put L (taken (s.port L))) s t

/-- REFUSE_RECEIVED matching a SENDING or AWAIT_ACK message: below the attempt limit it waits out a refuse backoff, and
at the limit it ends as failed with the REFUSE's reason (R154). An ACK or a REFUSE that matches no message, and a REFUSE
that matches one in BACKOFF or RESEND, are counted as stray and change nothing else (R155). -/
def Obligations.RefuseEndsTheAttemptAndStraysAreCounted : Prop :=
  ∀ (s : State) (L : Link) (origin : Byte) (tag : Tag) (reason : RefuseReason),
    let got (h : HandedFrame) : Prop := (s.port L).handedOver = some h
    let strayed : State := { s with ports := s.ports.put L (counted .stray (taken (s.port L))) }
    let why : FailReason := match reason with
      | .noContext => .refusedNoContext
      | .noBlock => .refusedNoBlock
    (∀ d, got (.refuse origin tag reason) → Matches L origin tag d s →
      ((s.desc d).state = .sending ∨ (s.desc d).state = .awaitAck) →
      ((s.desc d).attempts < (s.sch L).attemptLimit →
        exec (.refuseReceived L) s = .next { s with
          ports := s.ports.put L (taken (s.port L))
          table := { s.table with descriptors := s.table.descriptors.put d { s.desc d with
            state := .backoff, position := 0,
            deadline := some (.armed (s.now + BitVec.ofNat 16 (s.sch L).refuseBackoff)) } }
          sched := s.sched.put L { s.sch L with lineRecord := unnamed d (s.sch L).lineRecord } }) ∧
      ((s.desc d).attempts = (s.sch L).attemptLimit →
        ∃ t, exec (.refuseReceived L) s = .next t ∧
          Ended L d (offered (failedNotice L d why s) s.notices) (s.ports.put L (taken (s.port L))) s t)) ∧
    (got (.ack origin tag) → MatchesNone L origin tag s → exec (.ackReceived L) s = .next strayed) ∧
    (got (.refuse origin tag reason) →
      (MatchesNone L origin tag s ∨
        ∃ d, Matches L origin tag d s ∧ ((s.desc d).state = .backoff ∨ (s.desc d).state = .resend)) →
      exec (.refuseReceived L) s = .next strayed)

/-- FRAME_START in RUN with an IDLE transmitter and a request waiting: the oldest request leaves the control queue and
its frame is on the line, with the station address as origin and a matching check; the outbound messages are not
touched (R14, R15, R101, R102). Outside RUN or IDLE, or with nothing to send, no frame starts (R14). -/
def Obligations.FrameStartTakesControlRequestsFirst : Prop :=
  ∀ (s : State) (L : Link),
    (∀ r rest, (s.port L).state = .run → (s.port L).transmitter = .idle → (s.port L).controlQueue = r :: rest →
      let body : List Byte := match r.kind with
        | .ack => [0x32, r.destination, BitVec.ofNat 8 (s.port L).stationAddress, BitVec.ofNat 8 r.tag.val, 0, 0]
        | .refuse .noContext => [0x33, r.destination, BitVec.ofNat 8 (s.port L).stationAddress, BitVec.ofNat 8 r.tag.val, 0, 1, 1]
        | .refuse .noBlock => [0x33, r.destination, BitVec.ofNat 8 (s.port L).stationAddress, BitVec.ofNat 8 r.tag.val, 0, 1, 2]
      exec (.frameStart L) s = .next { s with ports := s.ports.put L { s.port L with
        transmitter := .active, txPeriods := 0, controlQueue := rest,
        txBuffer := framed body } }) ∧
    (((s.port L).state ≠ .run ∨ (s.port L).transmitter ≠ .idle ∨
        ((s.port L).controlQueue = [] ∧ SendsNone L s ∧ (s.sch L).resendOrder = [] ∧
          ((s.sch L).outboundQueue = [] ∨ (s.sch L).outstandingLimit ≤ (s.sch L).outstanding.length))) → exec (.frameStart L) s = .next s)

/-- FRAME_START with no request waiting takes the scheduler's offer by the first of the three cases of R147: the next
fragment of the SENDING message, the head of the resend order, or the head of the outbound queue within the outstanding
limit. The message, its tag and its attempts change as R148 and R149 say, and the frame on the line carries its
fragment: the bytes of the chain's block at the fragment's number, with the final flag on the last one (R15, R148). -/
def Obligations.FrameStartTakesTheOffer : Prop :=
  ∀ (s : State) (L : Link) (d : DescNo), (s.port L).state = .run → (s.port L).transmitter = .idle →
    (s.port L).controlQueue = [] →
    let sent (x : Descriptor) (sch : Scheduler) : State := { s with
      table := { s.table with descriptors := s.table.descriptors.put d x }
      sched := s.sched.put L { sch with lineRecord := some ⟨x.position, some d⟩ }
      ports := s.ports.put L { s.port L with
        transmitter := .active, txPeriods := 0,
        txBuffer := dataBytes (s.port L).stationAddress s.pool.blocks x } }
    (Sending L d s → exec (.frameStart L) s = .next (sent (s.desc d) (s.sch L))) ∧
    (∀ rest, SendsNone L s → (s.sch L).resendOrder = d :: rest →
      exec (.frameStart L) s = .next (sent
        { s.desc d with state := .sending, position := 0, attempts := (s.desc d).attempts + 1 }
        { s.sch L with resendOrder := rest })) ∧
    (∀ rest, SendsNone L s → (s.sch L).resendOrder = [] → (s.sch L).outboundQueue = d :: rest →
      (s.sch L).outstanding.length < (s.sch L).outstandingLimit →
      exec (.frameStart L) s = .next (sent
        { s.desc d with state := .sending, position := 0, tag := some (s.tagGiven L), attempts := 1 }
        { s.sch L with
          outboundQueue := rest, outstanding := (s.sch L).outstanding ++ [d], nextTag := s.tagGiven L + 1 }))

/-- The tag given to a message is the first one from the next-tag counter on, counting on from 63 to 0, that no
outstanding message of the link holds (R149). -/
def Obligations.TagGivenIsTheFirstOneFree : Prop :=
  ∀ (s : State) (L : Link), (s.sch L).outstanding.length ≤ 4 →
    ∃ k ≤ 4, s.tagGiven L = (s.sch L).nextTag + Fin.ofNat 64 k ∧
      (∀ d ∈ (s.sch L).outstanding, (s.desc d).tag ≠ some (s.tagGiven L)) ∧
      (∀ j < k, ∃ d ∈ (s.sch L).outstanding, (s.desc d).tag = some ((s.sch L).nextTag + Fin.ofNat 64 j))

/-- FRAME_END outside STOPPING, and TX_GAP_END. More fragments move the position on; the last fragment of a broadcast
ends the message as done; the last fragment of a unicast message arms its acknowledgement wait; a line record without
a descriptor changes no message (R16, R151). The transmitter measures its gap and then is IDLE (R14). In a reference
period a transmitter sends or measures on; the period that ends the last stop bit of the frame is its frame end, and the
one that ends two character times of GAP makes it IDLE; in IDLE, frame start is taken as soon as its conditions hold
(R2, R3, R14, R16). The model's choices: the moment of a frame start (log entry 12), `txBuffer` is empty after the frame
(log entry 11), and FRAME_END and TX_GAP_END are taken at any count of periods (log entry 13). -/
def Obligations.FrameEndMovesTheMessageOn : Prop :=
  ∀ (s : State) (L : Link),
    let gap : Table LinkPort 4 :=
      s.ports.put L { s.port L with transmitter := .gap, txPeriods := 0, txBuffer := [] }
    let offLine (x : Scheduler) : Scheduler := { x with lineRecord := none }
    ((s.port L).transmitter = .active → (s.port L).state ≠ .stopping →
      (∀ n d, (s.sch L).lineRecord = some ⟨n, some d⟩ → (s.desc d).state = .sending →
        n + 1 < (s.desc d).fragmentCount.getD 1 →
        exec (.frameEnd L) s = .next { s with
          ports := gap
          table := { s.table with descriptors := s.table.descriptors.put d { s.desc d with position := n + 1 } }
          sched := s.sched.put L (offLine (s.sch L)) }) ∧
      (∀ n d, (s.sch L).lineRecord = some ⟨n, some d⟩ → (s.desc d).state = .sending →
        (s.desc d).fragmentCount.getD 1 ≤ n + 1 → (s.desc d).broadcast = false →
        exec (.frameEnd L) s = .next { s with
          ports := gap
          table := { s.table with descriptors := s.table.descriptors.put d { s.desc d with
            state := .awaitAck, position := 0,
            deadline := some (.armed (s.now + BitVec.ofNat 16 (s.sch L).ackWait)) } }
          sched := s.sched.put L (offLine (s.sch L)) }) ∧
      (∀ n d, (s.sch L).lineRecord = some ⟨n, some d⟩ → (s.desc d).state = .sending →
        (s.desc d).fragmentCount.getD 1 ≤ n + 1 → (s.desc d).broadcast = true →
        ∃ t u, exec (.frameEnd L) s = .next t ∧ t = { u with sched := u.sched.put L (offLine (u.sch L)) } ∧
          Ended L d (if (s.sch L).reportDone = true then offered (doneNotice L d s) s.notices else s.notices)
            gap s u) ∧
      (((s.sch L).lineRecord = none ∨ ∃ n, (s.sch L).lineRecord = some ⟨n, none⟩) →
        exec (.frameEnd L) s = .next { s with ports := gap, sched := s.sched.put L (offLine (s.sch L)) })) ∧
    ((s.port L).transmitter = .gap → s.host.resetLow = false →
      exec (.txGapEnd L) s = .next { s with
        ports := s.ports.put L { s.port L with transmitter := .idle, txPeriods := 0 } }) ∧
    (let p := s.port L
     let bit := 16 * 2 ^ (7 - p.lineRate)
     let goesOn : State := { s with ports := s.ports.put L { p with txPeriods := p.txPeriods + 1 } }
     (p.transmitter = .active → p.txPeriods + 1 < 10 * p.txBuffer.length * bit → transmitterPeriod L s = goesOn) ∧
     (∀ t, p.transmitter = .active → 10 * p.txBuffer.length * bit ≤ p.txPeriods + 1 →
       exec (.frameEnd L) s = .next t → transmitterPeriod L s = t) ∧
     (p.transmitter = .gap → p.txPeriods + 1 < 20 * bit → transmitterPeriod L s = goesOn) ∧
     (p.transmitter = .gap → 20 * bit ≤ p.txPeriods + 1 →
       transmitterPeriod L s =
         { s with ports := s.ports.put L { p with transmitter := .idle, txPeriods := 0 } }) ∧
     (∀ t, p.transmitter = .idle → exec (.frameStart L) s = .next t → transmitterPeriod L s = t))

/-! ### Link commands -/

/-- LINK_START: an OFF link with an assigned station address enters RUN with its receiver in SETTLING, and each of its
waiting messages gets a fresh deadline. LINK_STOP with a frame on the line: a RUN link enters STOPPING, its receiver
disabled and what it had received discarded uncounted. Otherwise BAD_PARAM or STATE is answered and nothing else changes
(R18 to R20, R165). That the idle gap of SETTLING is counted as 320 samples of the line is the model's choice (log entry
28). -/
def Obligations.LinkStartEntersRunAndLinkStopStopping : Prop :=
  ∀ s : State, s.operational →
    (4 ≤ s.host.p0.toNat → exec .linkStart s = .next { s with host := answered 0x01 .badParam s }) ∧
    (∀ L : Link, s.host.p0.toNat = L.val →
      ((s.port L).state = .off → (s.port L).stationAddress = 0 →
        exec .linkStart s = .next { s with host := answered 0x01 .badParam s }) ∧
      ((s.port L).state ≠ .off → exec .linkStart s = .next { s with host := answered 0x01 .state s }) ∧
      ((s.port L).state = .off → (s.port L).stationAddress ≠ 0 →
        ∃ t, exec .linkStart s = .next t ∧
          (∀ d, t.desc d =
            if (s.desc d).link = L ∧ (s.desc d).state = .awaitAck then
              { s.desc d with deadline := some (.armed (s.now + BitVec.ofNat 16 (s.sch L).ackWait)) }
            else if (s.desc d).link = L ∧ (s.desc d).state = .backoff then
              { s.desc d with deadline := some (.armed (s.now + BitVec.ofNat 16 (s.sch L).refuseBackoff)) }
            else s.desc d) ∧
          t = { s with
            ports := s.ports.put L { s.port L with
              state := .run, receiver := .settling, rxBuffer := [], idleLeft := 320 }
            table := { s.table with descriptors := t.table.descriptors }
            host := answered 0x01 .ok s })) ∧
    (4 ≤ s.host.p0.toNat → exec .linkStop s = .next { s with host := answered 0x02 .badParam s }) ∧
    (∀ L : Link, s.host.p0.toNat = L.val →
      ((s.port L).state ≠ .run → exec .linkStop s = .next { s with host := answered 0x02 .state s }) ∧
      ((s.port L).state = .run → (s.port L).transmitter = .active →
        exec .linkStop s = .next { s with
          ports := s.ports.put L { s.port L with
            state := .stopping, receiver := .disabled, rxBuffer := [], handedOver := none }
          host := answered 0x02 .ok s }))

namespace Sys2Proof.Statement

/-- The link that a command concerns, when it is an event of one link, a timer of one link, or a link command whose
parameter P0 names one. -/
def concerns (s : State) : Instr → Option Link
  | .settlingGapEnd L | .rxFrameComplete L | .truncation L | .characterError L | .oversizedPayloadLength L
  | .characterReceived L _ | .fragment L | .ackReceived L | .refuseReceived L | .frameStart L | .frameEnd L
  | .txGapEnd L => some L
  | .contextLifetimeExpiry e => (s.context e).map (·.link)
  | .acknowledgementWaitExpiry d | .refuseBackoffExpiry d => some (s.desc d).link
  | .linkStart | .linkStop | .linkReset | .countersClear | .outWithdraw =>
    if h : s.host.p0.toNat < 4 then some ⟨s.host.p0.toNat, h⟩ else none
  | _ => none

/-- What belongs to link `M` is the same in both states: its port, its scheduler, its ready queue, its history, its
settings, its contexts, and the descriptors that its messages hold. -/
structure SameLink (M : Link) (s t : State) : Prop where
  port : t.port M = s.port M
  scheduler : t.sch M = s.sch M
  ready : t.ready M = s.ready M
  history : t.history M = s.history M
  settings : t.reasm.quota.look M = s.reasm.quota.look M ∧ t.reasm.lifetime.look M = s.reasm.lifetime.look M ∧
    t.pool.ceiling.look M = s.pool.ceiling.look M ∧ t.arbiter.linkWeight.look M = s.arbiter.linkWeight.look M
  contexts : ∀ e c, c.link = M → (t.context e = some c ↔ s.context e = some c)
  messages : ∀ d, (s.desc d).state ≠ .free → (s.desc d).link = M → t.desc d = s.desc d

/-- What each descriptor holds after link `L` has entered OFF from STOPPING (R20, R86, R163, R164): cleared when a
context of the link held it; RESEND, or cleared at its limit, when it was SENDING; with its deadline suspended when it
waited; and otherwise as it was. -/
def afterOff (L : Link) (s : State) (d : DescNo) (x : Descriptor) : Prop :=
  (assemblingOn L d s → x = .cleared) ∧
  ((s.desc d).link = L → (s.desc d).state = .sending →
    x = if (s.desc d).attempts < (s.sch L).attemptLimit then
      { s.desc d with state := .resend, position := 0, deadline := none } else .cleared) ∧
  ((s.desc d).link = L → ((s.desc d).state = .awaitAck ∨ (s.desc d).state = .backoff) →
    x = { s.desc d with deadline := (s.desc d).deadline.map fun
      | .armed t => .suspended t
      | .suspended t => .suspended t }) ∧
  (¬ assemblingOn L d s →
    ((s.desc d).link ≠ L ∨
      ((s.desc d).state ≠ .sending ∧ (s.desc d).state ≠ .awaitAck ∧ (s.desc d).state ≠ .backoff)) →
    x = s.desc d)

/-- Link `L` has entered OFF: contexts abandoned, control queue empty, the SENDING message stopped, deadlines suspended,
and LINK_STOPPED recorded last; the port is as given (R20). -/
structure EnteredOff (L : Link) (p : LinkPort) (h : HostPort) (s t : State) : Prop where
  descriptors : ∀ d, afterOff L s d (t.desc d)
  contexts : ∀ e, t.context e = if (s.context e).map (·.link) = some L then none else s.context e
  sending : ∀ d, Sending L d s → (s.desc d).attempts < (s.sch L).attemptLimit →
    Returned (contextBlocks L s) s.pool t.pool ∧
    t.notices = offered ⟨L, s.now, .linkStopped (contextsOf L s)⟩ s.notices ∧
    t.sched = s.sched.put L { s.sch L with resendOrder := (s.sch L).resendOrder ++ [d], lineRecord := none }
  failing : ∀ d, Sending L d s → (s.sch L).attemptLimit ≤ (s.desc d).attempts →
    Returned (contextBlocks L s ++ (s.desc d).chain) s.pool t.pool ∧
    t.notices = offered ⟨L, s.now, .linkStopped (contextsOf L s)⟩
      (offered (failedNotice L d .stoppedAtLimit s) s.notices) ∧
    t.sched = s.sched.put L { without d (s.sch L) with lineRecord := none }
  none : SendsNone L s →
    Returned (contextBlocks L s) s.pool t.pool ∧
    t.notices = offered ⟨L, s.now, .linkStopped (contextsOf L s)⟩ s.notices ∧
    t.sched = s.sched.put L { s.sch L with lineRecord := none }
  rest : t = { s with
    ports := s.ports.put L p, host := h, pool := t.pool, notices := t.notices, sched := t.sched,
    table := { s.table with descriptors := t.table.descriptors },
    reasm := { s.reasm with contexts := t.reasm.contexts } }

end Sys2Proof.Statement

/-- A link enters OFF at once by LINK_STOP when no frame is on its line, and otherwise by the FRAME_END in STOPPING,
which first reports the frame as outside STOPPING and then has every effect of R20 in its order (R16, R20, R86, R103,
R163, R164). The model's choices: the order of the returns (log entry 17), the old value that a suspended deadline keeps
(log entry 20), and a message with more attempts than the limit treated as one at the limit (log entry 21). -/
def Obligations.StoppingLinkEntersOff : Prop :=
  ∀ (s : State) (L : Link), HoldersSound s →
    let with_ (st : LinkState) (u : State) : State := { u with ports := u.ports.put L { u.port L with state := st } }
    (s.operational → s.host.p0.toNat = L.val → (s.port L).state = .run → (s.port L).transmitter ≠ .active →
      (s.sch L).lineRecord = none →
      ∃ t, exec .linkStop s = .next t ∧
        EnteredOff L { s.port L with
          state := .off, receiver := .disabled, rxBuffer := [], handedOver := none, controlQueue := [] }
          (answered 0x02 .ok s) s t) ∧
    ((s.port L).state = .stopping → (s.port L).transmitter = .active →
      ∃ u t, exec (.frameEnd L) (with_ .run s) = .next u ∧ exec (.frameEnd L) s = .next t ∧
        EnteredOff L { u.port L with state := .off, controlQueue := [] } u.host (with_ .stopping u) t)

/-- LINK_RESET in every link state: the link is OFF, its contexts, history, ready queue, outbound messages, control
queue, counters and next tag are cleared, the blocks go back in the order of R44, and LINK_RESET is recorded last with
the three counts; the settings, the other links, the service context and the compose context are kept (R21, R44, R60,
R87, R93, R103, R166, R177). That `txBuffer` is then empty is the model's choice (log entry 11). -/
def Obligations.LinkResetClearsTheLink : Prop :=
  ∀ s : State, s.operational →
    (4 ≤ s.host.p0.toNat → exec .linkReset s = .next { s with host := answered 0x03 .badParam s }) ∧
    (∀ L : Link, HoldersSound s → s.host.p0.toNat = L.val →
      ∃ t, exec .linkReset s = .next t ∧
        Returned (contextBlocks L s ++ chainsOf (s.ready L) s ++ chainsOf (s.sch L).outboundQueue s ++
          chainsOf ((List.finRange 96).filter fun d => decide (d ∈ (s.sch L).outstanding)) s) s.pool t.pool ∧
        (∀ d, (assemblingOn L d s ∨ d ∈ s.ready L ∨ d ∈ (s.sch L).outboundQueue ∨ d ∈ (s.sch L).outstanding) →
          t.desc d = .cleared) ∧
        (∀ d, ¬ (assemblingOn L d s ∨ d ∈ s.ready L ∨ d ∈ (s.sch L).outboundQueue ∨ d ∈ (s.sch L).outstanding) →
          t.desc d = s.desc d) ∧
        (∀ e, t.context e = if (s.context e).map (·.link) = some L then none else s.context e) ∧
        t.notices = offered ⟨L, s.now, .linkReset (contextsOf L s) (s.ready L).length
          ((s.sch L).outboundQueue.length + (s.sch L).outstanding.length)⟩ s.notices ∧
        t = { s with
          ports := s.ports.put L { s.port L with
            state := .off, receiver := .disabled, rxBuffer := [], handedOver := none,
            transmitter := if (s.port L).transmitter = .active then .gap else (s.port L).transmitter,
            txPeriods := if (s.port L).transmitter = .active then 0 else (s.port L).txPeriods,
            txBuffer := [], controlQueue := [], counters := ⟨0, 0, 0, 0, 0, 0, 0, 0⟩,
            lossIndicator := false },
          sched := s.sched.put L { s.sch L with
            outboundQueue := [], resendOrder := [], outstanding := [], lineRecord := none, nextTag := 0 },
          pool := t.pool, notices := t.notices, host := answered 0x03 .ok s,
          table := { descriptors := t.table.descriptors, readyQueue := s.table.readyQueue.put L [] },
          reasm := { s.reasm with contexts := t.reasm.contexts, history := s.reasm.history.put L [] } })

/-- No event, timer or link command of one link changes anything that belongs to another link: its port and counters,
its scheduler, its queues, its history, its settings, its contexts and its messages (R93, R96, R128, R174; sections 1
and 9.1). -/
def Obligations.LinksAreIndependent : Prop :=
  ∀ (c : Instr) (s t : State) (L M : Link), HoldersSound s → concerns s c = some L → M ≠ L → exec c s = .next t →
    SameLink M s t

/-- COUNTERS_CLEAR zeroes the eight counters of its link and clears its loss indicator, and NOTICE_CLEAR_OVERFLOW sets
the overflow count to 0; nothing else changes (R172, R176). -/
def Obligations.CountersClearAndClearOverflow : Prop :=
  ∀ s : State, s.operational →
    (4 ≤ s.host.p0.toNat → exec .countersClear s = .next { s with host := answered 0x31 .badParam s }) ∧
    (∀ L : Link, s.host.p0.toNat = L.val →
      exec .countersClear s = .next { s with
        ports := s.ports.put L { s.port L with counters := ⟨0, 0, 0, 0, 0, 0, 0, 0⟩, lossIndicator := false }
        host := answered 0x31 .ok s }) ∧
    exec .noticeClearOverflow s =
      .next { s with notices := { s.notices with overflow := 0 }, host := answered 0x30 .ok s }

/-- CLEAR_FLAGS clears CFG_REJECT and OVERREAD in READY, leaves the compose flags, and is refused with NOT_READY during
initialisation, where CFG_REJECT keeps its value (R187). -/
def Obligations.ClearFlagsClearsTwoFlags : Prop :=
  ∀ s : State, s.host.resetLow = false →
    (s.host.device = .ready →
      exec .clearFlags s = .next { s with
        arbiter := { s.arbiter with overread := false }
        host := { s.host with cfgReject := false, command := 0x32, outcome := .ok } }) ∧
    (s.host.device = .initialising →
      exec .clearFlags s = .next { s with host := { s.host with command := 0x32, outcome := .notReady } })

/-! ### Service -/

/-- The bid of a link with messages and of a notice queue with records, and no bid without them (R105, R106). -/
def Obligations.BidsAreWeightAndUrgency : Prop :=
  ∀ s : State,
    (∀ L, s.ready L = [] → s.bid (.link L) = none) ∧
    (∀ L d rest, s.ready L = d :: rest →
      s.bid (.link L) = some (s.arbiter.linkWeight.look L * 32 + min 31 ((s.ready L).length + (s.desc d).age))) ∧
    (s.notices.records = [] → s.bid .noticeQueue = none) ∧
    (s.notices.records ≠ [] →
      s.bid .noticeQueue = some (s.arbiter.noticeWeight * 32 + min 31 s.notices.records.length)) ∧
    (SettingsLegal s → ∀ x n, s.bid x = some n → 1 ≤ n ∧ n ≤ 255)

/-- The winner is a candidate, no candidate bids above it, and none with a lower source number bids the same; there is
no winner exactly when there is no candidate (R111). ATTN is asserted exactly when the attention enable is on, the
service context is EMPTY and some candidate bids above the threshold (R110). The lead source and the lead bid read as
the winner's number and bid, and 0 and 0 without a candidate (R109), and the global status reads as the bits of R186.
-/
def Obligations.WinnerHasTheHighestBid : Prop :=
  ∀ s : State,
    (∀ x n, s.winner = some (x, n) ↔
      s.bid x = some n ∧ (∀ y m, s.bid y = some m → m ≤ n) ∧
        (∀ y, s.bid y = some n → x.number ≤ y.number)) ∧
    (s.winner = none ↔ ∀ x, s.bid x = none) ∧
    (s.attn = true ↔ s.arbiter.attentionEnable = true ∧ s.arbiter.service = .empty ∧
      ∃ x n, s.bid x = some n ∧ s.arbiter.threshold < n) ∧
    (∀ x n, s.winner = some (x, n) →
      windowRead s 0x37 = BitVec.ofNat 8 x.number ∧ windowRead s 0x38 = BitVec.ofNat 8 n) ∧
    (s.winner = none → windowRead s 0x37 = 0 ∧ windowRead s 0x38 = 0) ∧
    (let bit (n : Nat) : Prop := (windowRead s 0x03).getLsbD n = true
     (bit 0 ↔ s.host.device = .ready) ∧ (bit 1 ↔ s.host.cfgReject = true) ∧ (bit 2 ↔ s.arbiter.overread = true) ∧
     (bit 3 ↔ s.compose.stalled = true) ∧ (bit 4 ↔ s.compose.overlong = true) ∧
     (bit 5 ↔ s.compose.descriptor ≠ none) ∧ (bit 6 ↔ s.attn = true) ∧ ¬ bit 7)

/-- TAKE and TAKE_ANY with the service context EMPTY move the winner's item into it, TAKE only when the winner bids
above the threshold; the cursor is 0 and OVERREAD is clear. While an item is held they are refused with BUSY, and
without a candidate (for TAKE, without one above the threshold) with NONE, and nothing else changes (R113 to R116).
The service window shows the fields of the held message or of the held notice, and 0 in every field that does not
apply (R122, R123). -/
def Obligations.TakeServesTheWinner : Prop :=
  ∀ (s : State) (n : Nat), s.operational →
    let serving (c : ServiceContext) : Arbiter := { s.arbiter with service := c, cursor := 0, overread := false }
    let message (code : Byte) (L : Link) (d : DescNo) (rest : List DescNo) : State := { s with
      table := {
        descriptors := s.table.descriptors.put d { s.desc d with state := .service }
        readyQueue := s.table.readyQueue.put L rest }
      arbiter := serving (.message L n d)
      host := answered code .ok s }
    let record (code : Byte) (r : Notice) (rest : List Notice) : State := { s with
      notices := { s.notices with records := rest }
      arbiter := serving (.notice n r)
      host := answered code .ok s }
    (s.arbiter.service ≠ .empty →
      exec .take s = .next { s with host := answered 0x10 .busy s } ∧
      exec .takeAny s = .next { s with host := answered 0x11 .busy s }) ∧
    (s.arbiter.service = .empty → (∀ x m, s.bid x = some m → m ≤ s.arbiter.threshold) →
      exec .take s = .next { s with host := answered 0x10 .none s }) ∧
    (s.arbiter.service = .empty → (∀ x, s.bid x = none) →
      exec .takeAny s = .next { s with host := answered 0x11 .none s }) ∧
    (∀ L d rest, s.arbiter.service = .empty → s.winner = some (.link L, n) → s.ready L = d :: rest →
      exec .takeAny s = .next (message 0x11 L d rest) ∧
      (s.arbiter.threshold < n → exec .take s = .next (message 0x10 L d rest))) ∧
    (∀ r rest, s.arbiter.service = .empty → s.winner = some (.noticeQueue, n) → s.notices.records = r :: rest →
      exec .takeAny s = .next (record 0x11 r rest) ∧
      (s.arbiter.threshold < n → exec .take s = .next (record 0x10 r rest))) ∧
    (∀ u : State,
      (u.arbiter.service = .empty → shows u fun _ => 0) ∧
      (∀ source bid d, u.arbiter.service = .message source bid d → shows u (messageFields source bid (u.desc d))) ∧
      (∀ bid r, u.arbiter.service = .notice bid r → shows u (noticeFields bid r)))

/-- RELEASE of a message: its chain goes back in chain order, its descriptor is cleared, the inbound hold of its link
falls by the length of the chain, the service context is EMPTY with the cursor at 0, and OVERREAD is kept (R118). -/
def Obligations.ReleaseFreesTheMessage : Prop :=
  ∀ (s : State) (source : Link) (bid : Nat) (d : DescNo), s.operational → HoldersSound s →
    s.arbiter.service = .message source bid d →
    ∃ t, exec .release s = .next t ∧
      Returned (s.desc d).chain s.pool t.pool ∧ OnlyDescriptor d .cleared s t ∧
      holdOf (s.desc d).link t + (s.desc d).chain.length = holdOf (s.desc d).link s ∧
      (∀ L, L ≠ (s.desc d).link → holdOf L t = holdOf L s) ∧
      t = { s with
        pool := t.pool, table := { s.table with descriptors := t.table.descriptors },
        arbiter := { s.arbiter with service := .empty, cursor := 0 }, host := answered 0x12 .ok s }

/-- RELEASE of a notice discards the record, and RELEASE with the service context EMPTY is refused with STATE (R119). -/
def Obligations.ReleaseOfANoticeOrOfNothing : Prop :=
  ∀ s : State, s.operational →
    (∀ bid r, s.arbiter.service = .notice bid r →
      exec .release s = .next { s with
        arbiter := { s.arbiter with service := .empty, cursor := 0 }, host := answered 0x12 .ok s }) ∧
    (s.arbiter.service = .empty → exec .release s = .next { s with host := answered 0x12 .state s })

/-- REQUEUE puts a message back at the head of the ready queue of its link with its age and every other field kept,
and a notice at the head of the notice queue unless that holds 32 records (R56, R120, R121). -/
def Obligations.RequeueReturnsTheItem : Prop :=
  ∀ s : State, s.operational →
    (∀ source bid d, s.arbiter.service = .message source bid d →
      exec .requeue s = .next { s with
        table := {
          descriptors := s.table.descriptors.put d { s.desc d with state := .ready }
          readyQueue := s.table.readyQueue.put (s.desc d).link (d :: s.ready (s.desc d).link) }
        arbiter := { s.arbiter with service := .empty, cursor := 0 }
        host := answered 0x13 .ok s }) ∧
    (∀ bid r, s.arbiter.service = .notice bid r → s.notices.records.length < 32 →
      exec .requeue s = .next { s with
        notices := { s.notices with records := r :: s.notices.records }
        arbiter := { s.arbiter with service := .empty, cursor := 0 }
        host := answered 0x13 .ok s }) ∧
    (∀ bid r, s.arbiter.service = .notice bid r → 32 ≤ s.notices.records.length →
      exec .requeue s = .next { s with host := answered 0x13 .noRoom s }) ∧
    (s.arbiter.service = .empty → exec .requeue s = .next { s with host := answered 0x13 .state s })

/-- READ_DATA_PORT_READ: below the length it returns the byte of the chain at the cursor and advances the cursor; at
the end of the message, or without one, it returns 00h and sets OVERREAD; during initialisation it returns 00h and
sets nothing (R124, R125). The read cursor: a low-byte write is latched, a high-byte write sets the cursor up to the
length of the held message (0 without one) and beyond it sets OVERREAD, and a low-byte read latches the high bits
(R126, R127). -/
def Obligations.ReadDataPortAndReadCursor : Prop :=
  ∀ (s : State) (v : Byte), s.host.resetLow = false →
    let value := 256 * v.toNat + s.arbiter.cursorWriteLatch.toNat
    let length := match s.arbiter.service with
      | .message _ _ d => (s.desc d).length
      | .empty => 0
      | .notice _ _ => 0
    exec (.readCursorLowWrite v) s = .next { s with arbiter := { s.arbiter with cursorWriteLatch := v } } ∧
    (s.host.device = .ready → value ≤ length →
      exec (.readCursorHighWrite v) s = .next { s with arbiter := { s.arbiter with cursor := value } }) ∧
    (s.host.device = .ready → length < value →
      exec (.readCursorHighWrite v) s =
        .next { s with arbiter := { s.arbiter with cursor := length, overread := true } }) ∧
    (s.host.device = .initialising → exec (.readCursorHighWrite v) s = .next s) ∧
    exec .readCursorLowRead s = .next { s with
      arbiter := { s.arbiter with cursorReadLatch := BitVec.ofNat 8 (s.arbiter.cursor / 256) }
      host := { s.host with dataBus := some (BitVec.ofNat 8 s.arbiter.cursor) } } ∧
    (∀ source bid d b, s.host.device = .ready → s.arbiter.service = .message source bid d →
      s.arbiter.cursor < (s.desc d).length → (s.desc d).chain[s.arbiter.cursor / 64]? = some b →
      exec .readDataPortRead s = .next { s with
        arbiter := { s.arbiter with cursor := s.arbiter.cursor + 1 }
        host := { s.host with
          dataBus := some (Memory.read s.pool.blocks (64 * b.val + s.arbiter.cursor % 64)) } }) ∧
    (s.host.device = .ready →
      ((∃ source bid d, s.arbiter.service = .message source bid d ∧ (s.desc d).length ≤ s.arbiter.cursor) ∨
        s.arbiter.service = .empty ∨ (∃ bid r, s.arbiter.service = .notice bid r)) →
      exec .readDataPortRead s = .next { s with
        arbiter := { s.arbiter with overread := true }
        host := { s.host with dataBus := some 0 } }) ∧
    (s.host.device = .initialising → s.arbiter.service = .empty →
      exec .readDataPortRead s = .next { s with host := { s.host with dataBus := some 0 } })

/-! ### Composing -/

/-- COMPOSE_OPEN judged in the order of R131; when every test passes, the lowest FREE descriptor is COMPOSING and the
context is open with both flags clear (R131, R132). -/
def Obligations.ComposeOpenClaimsADescriptor : Prop :=
  ∀ s : State, s.operational →
    (s.compose.descriptor ≠ none → exec .composeOpen s = .next { s with host := answered 0x20 .busy s }) ∧
    (s.compose.descriptor = none → 4 ≤ s.host.p0.toNat →
      exec .composeOpen s = .next { s with host := answered 0x20 .badParam s }) ∧
    (∀ L : Link, s.compose.descriptor = none → s.host.p0.toNat = L.val →
      ((s.host.p1.toNat = 0 ∨ s.host.p1.toNat = (s.port L).stationAddress) →
        exec .composeOpen s = .next { s with host := answered 0x20 .badParam s }) ∧
      (s.host.p1.toNat ≠ 0 → s.host.p1.toNat ≠ (s.port L).stationAddress → (∀ d, (s.desc d).state ≠ .free) →
        exec .composeOpen s = .next { s with host := answered 0x20 .noResource s }) ∧
      (∀ d, s.host.p1.toNat ≠ 0 → s.host.p1.toNat ≠ (s.port L).stationAddress →
        LowestFree d s →
        exec .composeOpen s = .next { s with
          table := { s.table with descriptors := s.table.descriptors.put d { Descriptor.cleared with
            state := .composing, direction := some .outbound, link := L, peer := s.host.p1,
            broadcast := decide (s.host.p1 = 255), reference := s.host.p2 } }
          compose := { s.compose with descriptor := some d, writeCount := 0, stalled := false, overlong := false }
          host := answered 0x20 .ok s }))

/-- COMPOSE_SUBMIT queues the message at the tail of its link's outbound queue with its fragment count, and
COMPOSE_CANCEL returns its chain and frees its descriptor; both close the context and keep the write count and the
flags, and both are refused with STATE when it is closed (R138, R140). -/
def Obligations.ComposeSubmitAndCancelCloseTheContext : Prop :=
  ∀ s : State, s.operational →
    (s.compose.descriptor = none →
      exec .composeSubmit s = .next { s with host := answered 0x21 .state s } ∧
      exec .composeCancel s = .next { s with host := answered 0x22 .state s }) ∧
    (∀ d, s.compose.descriptor = some d →
      exec .composeSubmit s = .next { s with
        table := { s.table with descriptors := s.table.descriptors.put d { s.desc d with
          state := .queued
          fragmentCount := some (if (s.desc d).length = 0 then 1 else ((s.desc d).length + 63) / 64) } }
        sched := s.sched.put (s.desc d).link { s.sch (s.desc d).link with
          outboundQueue := (s.sch (s.desc d).link).outboundQueue ++ [d] }
        compose := { s.compose with descriptor := none, submitted := d }
        host := answered 0x21 .ok s }) ∧
    (∀ d, s.compose.descriptor = some d →
      ∃ t, exec .composeCancel s = .next t ∧
        Returned (s.desc d).chain s.pool t.pool ∧ OnlyDescriptor d .cleared s t ∧
        t = { s with
          pool := t.pool, table := { s.table with descriptors := t.table.descriptors },
          compose := { s.compose with descriptor := none }, host := answered 0x22 .ok s })

/-- COMPOSE_DATA_PORT_WRITE. A byte that begins a block takes the head of the free list, any other goes into the last
block of the chain; it is stored at the used length and counted, and COMPOSE_STALLED is cleared (R133). For want of a
block it sets COMPOSE_STALLED; at length 1024 or with the context closed it sets COMPOSE_OVERLONG; during initialisation
it is ignored; nothing else changes (R134, R135). -/
def Obligations.ComposeDataPortTakesOrRefusesAByte : Prop :=
  ∀ (s : State) (v : Byte), s.host.resetLow = false →
    let open_ (d : DescNo) : Prop :=
      s.host.device = .ready ∧ s.compose.descriptor = some d ∧ (s.desc d).length < 1024
    let compose : Compose := { s.compose with writeCount := s.compose.writeCount + 1, stalled := false }
    (∀ d, open_ d → (s.desc d).length % 64 = 0 → s.pool.freeList = [] →
      exec (.composeDataPortWrite v) s = .next { s with compose := { s.compose with stalled := true } }) ∧
    (s.host.device = .ready →
      (s.compose.descriptor = none ∨ ∃ d, s.compose.descriptor = some d ∧ 1024 ≤ (s.desc d).length) →
      exec (.composeDataPortWrite v) s = .next { s with compose := { s.compose with overlong := true } }) ∧
    (s.host.device = .initialising → exec (.composeDataPortWrite v) s = .next s) ∧
    (∀ d b rest, open_ d → (s.desc d).length % 64 = 0 → s.pool.freeList = b :: rest →
      exec (.composeDataPortWrite v) s = .next { s with
        compose := compose
        pool := { s.pool with
          freeList := rest
          usedLength := s.pool.usedLength.put b 1
          blocks := Memory.write s.pool.blocks (64 * b.val) v }
        table := { s.table with descriptors := s.table.descriptors.put d { s.desc d with
          chain := (s.desc d).chain ++ [b], length := (s.desc d).length + 1 } } }) ∧
    (∀ d b, open_ d → (s.desc d).length % 64 ≠ 0 → (s.desc d).chain.getLast? = some b →
      exec (.composeDataPortWrite v) s = .next { s with
        compose := compose
        pool := { s.pool with
          usedLength := s.pool.usedLength.put b (s.pool.usedLength.look b + 1)
          blocks := Memory.write s.pool.blocks (64 * b.val + s.pool.usedLength.look b) v }
        table := { s.table with
          descriptors := s.table.descriptors.put d { s.desc d with length := (s.desc d).length + 1 } } }) ∧
    (∀ m k w, Memory.wf m → Memory.read (Memory.write m k w) k = w ∧
      ∀ a, a ≠ k → Memory.read (Memory.write m k w) a = Memory.read m a)

/-- OUT_WITHDRAW: the oldest message of the link with the reference is freed without a notice, unless it is SENDING
(BUSY) or there is none (NONE) (R161). -/
def Obligations.OutWithdrawFreesTheOldestMatch : Prop :=
  ∀ s : State, s.operational →
    (4 ≤ s.host.p0.toNat → exec .outWithdraw s = .next { s with host := answered 0x28 .badParam s }) ∧
    (∀ L : Link, s.host.p0.toNat = L.val →
      let messages := (s.sch L).outstanding ++ (s.sch L).outboundQueue
      ((∀ d ∈ messages, (s.desc d).reference ≠ s.host.p2) →
        exec .outWithdraw s = .next { s with host := answered 0x28 .none s }) ∧
      (∀ older d younger, messages = older ++ d :: younger → (s.desc d).reference = s.host.p2 →
        (∀ d' ∈ older, (s.desc d').reference ≠ s.host.p2) →
        ((s.desc d).state = .sending → exec .outWithdraw s = .next { s with host := answered 0x28 .busy s }) ∧
        ((s.desc d).state ≠ .sending →
          ∃ t u, exec .outWithdraw s = .next t ∧ t = { u with host := answered 0x28 .ok s } ∧
            Ended L d s.notices s.ports s u)))

/-! ### The register window -/

/-- TICK_COUNTER_LOW_READ, FREE_COUNT_LOW_READ, INBOUND_HOLD_LOW_READ and WRITE_COUNT_LOW_READ return the low eight
bits and copy the remaining bits into the latch that the high address reads (R26, R34, R36, R137). In every state each
address that no other statement covers reads what section 11.5 lists: the command, the outcome with the codes of R183,
the submitted descriptor, the latches (R26, R34, R36, R127, R137), the counts (R34, R36, R53, R65, R137, R168, R171),
the link state, queues and tag (R18, R57, R96, R145, R149), the eight counters and the loss indicator (R174, R175),
and the settings (R184); write-only and unassigned addresses read 00h (R179). The addresses from 40h on are those of
the link that link select names (R180). -/
def Obligations.LowByteReadsLatchTheRest : Prop :=
  (∀ s : State, s.host.resetLow = false →
    let driven (n : Nat) : HostPort := { s.host with dataBus := some (BitVec.ofNat 8 n) }
    let count := if s.host.device = .initialising then 512 else s.pool.freeList.length
    let L := s.host.linkSelect
    exec .tickCounterLowRead s = .next { s with
      time := { s.time with highLatch := BitVec.ofNat 8 (s.now.toNat / 256) }
      host := driven s.now.toNat } ∧
    exec .freeCountLowRead s = .next { s with
      pool := { s.pool with freeCountLatch := BitVec.ofNat 8 (count / 256) }
      host := driven count } ∧
    exec .inboundHoldLowRead s = .next { s with
      pool := { s.pool with holdLatch := s.pool.holdLatch.put L (BitVec.ofNat 8 (holdOf L s / 256)) }
      host := driven (holdOf L s) } ∧
    exec .writeCountLowRead s = .next { s with
      compose := { s.compose with writeCountLatch := BitVec.ofNat 8 (s.compose.writeCount / 256) }
      host := driven s.compose.writeCount }) ∧
  (∀ s : State,
    let L := s.host.linkSelect
    let p := s.port L
    let x := s.sch L
    let reads (a : BitVec 7) (n : Nat) : Prop := windowRead s a = BitVec.ofNat 8 n
    (windowRead s 0x00 = s.host.command ∧ reads 0x02 s.compose.submitted.val ∧ reads 0x04 L.val ∧
      windowRead s 0x05 = s.host.p0 ∧ windowRead s 0x06 = s.host.p1 ∧ windowRead s 0x07 = s.host.p2) ∧
    reads 0x01 (match s.host.outcome with
      | .ok => 0 | .none => 1 | .busy => 2 | .state => 3 | .badParam => 4 | .noResource => 5 | .noRoom => 6
      | .notReady => 7 | .unknown => 8) ∧
    (windowRead s 0x26 = s.arbiter.cursorReadLatch ∧ windowRead s 0x29 = s.compose.writeCountLatch ∧
      windowRead s 0x2B = s.time.highLatch ∧ windowRead s 0x2F = s.pool.freeCountLatch ∧
      windowRead s 0x4A = s.pool.holdLatch.look L) ∧
    (reads 0x25 s.arbiter.cursor ∧ reads 0x28 s.compose.writeCount ∧ reads 0x2A s.now.toNat ∧
      reads 0x2E (if s.host.device = .initialising then 512 else s.pool.freeList.length) ∧
      reads 0x30 ((List.finRange 96).countP fun d => (s.desc d).state = .free) ∧
      reads 0x32 s.notices.records.length ∧ reads 0x33 s.notices.overflow) ∧
    (reads 0x2C s.time.prescale ∧ reads 0x2D s.time.ageStep ∧ reads 0x31 s.pool.reserve ∧
      reads 0x34 s.arbiter.noticeWeight ∧ reads 0x35 s.arbiter.threshold ∧
      reads 0x36 (if s.arbiter.attentionEnable = true then 1 else 0)) ∧
    reads 0x40 (match p.state with | .off => 0 | .run => 1 | .stopping => 2) ∧
    (reads 0x41 p.stationAddress ∧ reads 0x42 (if p.acceptBroadcast = true then 1 else 0) ∧ reads 0x43 p.lineRate ∧
      reads 0x44 (s.reasm.quota.look L) ∧ reads 0x45 (s.reasm.lifetime.look L) ∧ reads 0x46 (contextsOf L s) ∧
      reads 0x47 (s.pool.ceiling.look L) ∧ reads 0x48 (s.pool.ceiling.look L / 256) ∧ reads 0x49 (holdOf L s) ∧
      reads 0x4B (s.ready L).length ∧ reads 0x4C (s.arbiter.linkWeight.look L)) ∧
    (reads 0x4D x.outstandingLimit ∧ reads 0x4E x.attemptLimit ∧ reads 0x4F x.ackWait ∧ reads 0x50 x.refuseBackoff ∧
      reads 0x51 (if x.reportDone = true then 1 else 0) ∧ reads 0x52 x.outboundQueue.length ∧
      reads 0x53 x.outstanding.length ∧ reads 0x54 x.nextTag.val ∧ reads 0x55 p.controlQueue.length) ∧
    (reads 0x56 p.counters.checkErrors ∧ reads 0x57 p.counters.formatErrors ∧
      reads 0x58 p.counters.duplicateFragments ∧ reads 0x59 p.counters.duplicateMessages ∧
      reads 0x5A p.counters.noContextDrops ∧ reads 0x5B p.counters.noBlockDrops ∧
      reads 0x5C p.counters.controlLost ∧ reads 0x5D p.counters.stray ∧
      reads 0x5E (if p.lossIndicator = true then 1 else 0)) ∧
    (∀ a : BitVec 7,
      (0x08 ≤ a.toNat ∧ a.toNat ≤ 0x0F) ∨ a = 0x27 ∨ (0x39 ≤ a.toNat ∧ a.toNat ≤ 0x3F) ∨ 0x5F ≤ a.toNat →
      windowRead s a = 0) ∧
    (∀ M, s.inboundHold M = holdOf M s ∧ s.contextCount M = contextsOf M s))

/-- LINK_SELECT_WRITE, CEILING_LOW_WRITE and CEILING_HIGH_WRITE: link select takes 0 to 3; the ceiling's low byte is
latched; its high byte makes a configuration write that is taken when the link is OFF and the value is in 16 to 512 and
not below the inbound hold (R37, R180, R185). -/
def Obligations.LinkSelectAndCeilingWrites : Prop :=
  ∀ (s : State) (v : Byte), s.host.resetLow = false →
    let L := s.host.linkSelect
    let value := 256 * v.toNat + (s.host.ceilingLatch.look L).toNat
    let rejected : State := { s with host := { s.host with cfgReject := true } }
    (∀ M : Link, v.toNat = M.val →
      exec (.linkSelectWrite v) s = .next { s with host := { s.host with linkSelect := M } }) ∧
    (4 ≤ v.toNat → exec (.linkSelectWrite v) s = .next rejected) ∧
    exec (.ceilingLowWrite v) s =
      .next { s with host := { s.host with ceilingLatch := s.host.ceilingLatch.put L v } } ∧
    ((16 ≤ value ∧ value ≤ 512 ∧ (s.port L).state = .off ∧ holdOf L s ≤ value) →
      exec (.ceilingHighWrite v) s =
        .next { s with pool := { s.pool with ceiling := s.pool.ceiling.put L value } }) ∧
    (¬ (16 ≤ value ∧ value ≤ 512 ∧ (s.port L).state = .off ∧ holdOf L s ≤ value) →
      exec (.ceilingHighWrite v) s = .next rejected)

/-- CONFIGURATION_WRITE of a setting: taken, when the value is in range, the link is OFF for a setting writable in OFF
only, and the value is not below its floor (the ranges, locks and floors of section 11.5), so that the address then
reads the value; refused otherwise, with CFG_REJECT set and every value kept. A parameter register takes any value,
and every other address ignores the write (R179, R181, R184). -/
def Obligations.ConfigurationWritesAreTakenOrRefused : Prop :=
  ∀ (s : State) (a : BitVec 7) (v : Byte), s.host.resetLow = false → (Instr.configurationWrite a v).wellFormed = true →
    (∀ x, a.toNat = addressOf x → writable s.host.linkSelect s v.toNat x →
      ∃ t, exec (.configurationWrite a v) s = .next t ∧ windowRead t a = v ∧
        (∀ y L, (y ≠ x ∨ (0x40 ≤ a.toNat ∧ L ≠ s.host.linkSelect)) → y.value L t = y.value L s) ∧
        t = { s with
          ports := t.ports, time := t.time, sched := t.sched,
          pool := { s.pool with reserve := t.pool.reserve },
          reasm := { s.reasm with quota := t.reasm.quota, lifetime := t.reasm.lifetime },
          arbiter := { s.arbiter with
            linkWeight := t.arbiter.linkWeight, noticeWeight := t.arbiter.noticeWeight,
            threshold := t.arbiter.threshold, attentionEnable := t.arbiter.attentionEnable } } ∧
        t.time = { s.time with
          prescale := t.time.prescale, ageStep := t.time.ageStep,
          divider := if x = .ageStep then 0 else s.time.divider } ∧
        (∀ L, t.port L = { s.port L with
          stationAddress := (t.port L).stationAddress, acceptBroadcast := (t.port L).acceptBroadcast,
          lineRate := (t.port L).lineRate,
          txPeriods := if x = .lineRate ∧ L = s.host.linkSelect then 0 else (s.port L).txPeriods }) ∧
        (∀ L, t.sch L = { s.sch L with
          outstandingLimit := (t.sch L).outstandingLimit, attemptLimit := (t.sch L).attemptLimit,
          ackWait := (t.sch L).ackWait, refuseBackoff := (t.sch L).refuseBackoff,
          reportDone := (t.sch L).reportDone })) ∧
    (∀ x, a.toNat = addressOf x → ¬ writable s.host.linkSelect s v.toNat x →
      exec (.configurationWrite a v) s = .next { s with host := { s.host with cfgReject := true } }) ∧
    (a = 0x05 → exec (.configurationWrite a v) s = .next { s with host := { s.host with p0 := v } }) ∧
    (a = 0x06 → exec (.configurationWrite a v) s = .next { s with host := { s.host with p1 := v } }) ∧
    (a = 0x07 → exec (.configurationWrite a v) s = .next { s with host := { s.host with p2 := v } }) ∧
    ((∀ x, a.toNat ≠ addressOf x) → a ≠ 0x05 → a ≠ 0x06 → a ≠ 0x07 → exec (.configurationWrite a v) s = .next s)

/-! ### What holds in every run -/

/-- The reset state meets every invariant below. -/
def Obligations.ResetMeetsTheInvariants : Prop :=
  SettingsLegal State.reset ∧ PeriodInInterval State.reset ∧ DeadlinesAhead State.reset ∧ QueuesBounded State.reset ∧
    LinksSound State.reset ∧ KeysDistinct State.reset ∧ QuotaKept State.reset ∧ HoldersSound State.reset ∧
    OutstandingSound State.reset ∧ BlocksAccounted State.reset ∧ HoldWithinCeiling State.reset ∧
    HeldInReset State.reset ∧ QuietWhileInitialising State.reset ∧ MemorySound State.reset

/-- Every step keeps every setting in its range, and the period count below an interval length that some prescale
gives (R23, R184). -/
def Obligations.EveryStepKeepsTheSettingsLegal : Prop :=
  ∀ s t : State, SettingsLegal s → PeriodInInterval s → step s = .next t → SettingsLegal t ∧ PeriodInInterval t

/-- Every step keeps every armed deadline 0 to 255 ticks ahead, so that no deadline is ever passed (R27, R28). -/
def Obligations.EveryStepKeepsDeadlinesAhead : Prop :=
  ∀ s t : State, SettingsLegal s → DeadlinesAhead s → step s = .next t → DeadlinesAhead t

/-- Every step keeps the notice queue, the control queues, the histories, the counters and the ages within their bounds
(R30, R89, R96, R168, R174), and the data of the block pool in canonical form. -/
def Obligations.EveryStepKeepsTheBoundsAndTheMemoryForm : Prop :=
  ∀ s t : State, step s = .next t → (QueuesBounded s → QueuesBounded t) ∧ (MemorySound s → MemorySound t)

/-- Every step keeps the receiver, the transmitter, the control queue and the contexts of each link as its link state
says, a frame handed over within its character time, and the contexts within the quota (R7, R13, R18, R63, R66, R97,
R103). -/
def Obligations.EveryStepKeepsTheLinksSound : Prop :=
  ∀ s t : State, LinksSound s → QuotaKept s → step s = .next t → LinksSound t ∧ QuotaKept t

/-- Every step keeps the keys of the contexts distinct, the histories free of repetition, and the two apart (R63,
R89). -/
def Obligations.EveryStepKeepsTheKeysDistinct : Prop :=
  ∀ s t : State, KeysDistinct s → step s = .next t → KeysDistinct t

/-- Every step keeps each descriptor with exactly the one holder that its state names (R49, R54, R144). -/
def Obligations.EveryStepKeepsOneHolderPerDescriptor : Prop :=
  ∀ s t : State, HoldersSound s → step s = .next t → HoldersSound t

/-- Every step keeps the outstanding messages of each link within its limits, with tags that differ (R145). -/
def Obligations.EveryStepKeepsTheOutstandingLimits : Prop :=
  ∀ s t : State, SettingsLegal s → HoldersSound s → OutstandingSound s → step s = .next t → OutstandingSound t

/-- Every step keeps each block in exactly one place: the free list, one fragment slot, or one chain (R32). -/
def Obligations.EveryStepKeepsTheBlocksAccounted : Prop :=
  ∀ s t : State, HoldersSound s → QuietWhileInitialising s → BlocksAccounted s → step s = .next t → BlocksAccounted t

/-- Every step keeps the inbound hold of each link within its inbound ceiling (R37). -/
def Obligations.EveryStepKeepsTheHoldWithinTheCeiling : Prop :=
  ∀ s t : State, HoldersSound s → HoldWithinCeiling s → step s = .next t → HoldWithinCeiling t

/-- Every step keeps the part in its reset state while the RESET line is held low, and quiet during initialisation
(R188, R190; log entry 14). -/
def Obligations.EveryStepKeepsResetAndInitialisationQuiet : Prop :=
  ∀ s t : State, HeldInReset s → QuietWhileInitialising s → step s = .next t →
    HeldInReset t ∧ QuietWhileInitialising t
end

