-- ==== Sys2Proof/Laws/Frame.lean ====
section
/-! SUPPORT. Frames in numbers: where a frame being received stands, and the check one bit at a time. -/

namespace Sys2Proof.Machine

/-! ### Where a frame being received stands (R8) -/

theorem rxProgress_eq_unfinished {bytes : List Byte} :
    rxProgress bytes = .unfinished ↔
      bytes.length < 7 ∨ ((bytes.getD 6 0).toNat ≤ 64 ∧ bytes.length < 9 + (bytes.getD 6 0).toNat) := by
  unfold rxProgress declaredLength
  simp only [Config.blockSize]
  generalize (bytes.getD 6 0).toNat = n
  split <;> (try split) <;> (try split) <;> simp <;> omega

theorem rxProgress_eq_oversized {bytes : List Byte} :
    rxProgress bytes = .oversized ↔ 7 ≤ bytes.length ∧ 64 < (bytes.getD 6 0).toNat := by
  unfold rxProgress declaredLength
  simp only [Config.blockSize]
  generalize (bytes.getD 6 0).toNat = n
  split <;> (try split) <;> (try split) <;> simp <;> omega

theorem rxProgress_eq_complete {bytes : List Byte} :
    rxProgress bytes = .complete ↔
      7 ≤ bytes.length ∧ (bytes.getD 6 0).toNat ≤ 64 ∧ 9 + (bytes.getD 6 0).toNat ≤ bytes.length := by
  unfold rxProgress declaredLength
  simp only [Config.blockSize]
  generalize (bytes.getD 6 0).toNat = n
  split <;> (try split) <;> (try split) <;> simp <;> omega

/-! ### The check (R6) -/

/-- A step of the check is linear. -/
theorem crcBit_xor (a b : BitVec 16) : crcBit (a ^^^ b) = crcBit a ^^^ crcBit b := by
  unfold crcBit
  rw [BitVec.msb_xor, BitVec.shiftLeft_xor_distrib]
  generalize a <<< 1 = x, b <<< 1 = y, 0x1021#16 = z
  rcases Bool.eq_false_or_eq_true a.msb with h | h <;> rcases Bool.eq_false_or_eq_true b.msb with k | k <;>
    simp only [h, k] <;> simp <;> ext i hi <;> simp only [BitVec.getElem_xor] <;>
    cases x[i] <;> cases y[i] <;> cases z[i] <;> rfl

/-- Some steps of the check on a sum. -/
theorem foldl_crcBit_xor (l : List Nat) (a b : BitVec 16) :
    l.foldl (fun r _ => crcBit r) (a ^^^ b) =
      l.foldl (fun r _ => crcBit r) a ^^^ l.foldl (fun r _ => crcBit r) b := by
  induction l generalizing a b with
  | nil => rfl
  | cons _ l ih => simp only [List.foldl_cons, crcBit_xor, ih]

/-- One bit enters the register of the check. -/
def crcFeed (c : BitVec 16) (bit : Bool) : BitVec 16 := if c.msb = bit then c <<< 1 else (c <<< 1) ^^^ 0x1021#16

/-- A bit enters the register at its top. -/
theorem crcFeed_eq (c : BitVec 16) (bit : Bool) : crcFeed c bit = crcBit (c ^^^ if bit then 0x8000#16 else 0) := by
  have m : (0x8000#16).msb = true := by decide
  have z : (0x8000#16) <<< 1 = 0#16 := by decide
  rw [crcBit_xor]
  unfold crcFeed crcBit
  rcases Bool.eq_false_or_eq_true c.msb with h | h <;> cases bit <;> simp [h, m, z]

/-- A byte is fed into the check bit by bit, most significant bit first. -/
theorem crcByte_eq_bits (c : BitVec 16) (b : Byte) : crcByte c b = ((List.range 8).map b.getMsbD).foldl crcFeed c := by
  have linear (l : List Bool) (a : BitVec 16) :
      l.foldl crcFeed a = l.foldl (fun r _ => crcBit r) a ^^^ l.foldl crcFeed 0 := by
    induction l using List.reverseRecOn with
    | nil => simp
    | append_singleton l x ih =>
      simp only [List.foldl_append, List.foldl_cons, List.foldl_nil]
      rw [crcFeed_eq, crcFeed_eq, ih, crcBit_xor, crcBit_xor, crcBit_xor, BitVec.xor_assoc]
  have bytes : ∀ n : Fin 256,
      (List.range 8).foldl (fun r _ => crcBit r) ((BitVec.ofNat 8 n.val).setWidth 16 <<< 8) =
        ((List.range 8).map (BitVec.ofNat 8 n.val).getMsbD).foldl crcFeed 0 := by decide +kernel
  rw [linear, crcByte, foldl_crcBit_xor]
  congr 1
  simpa using bytes ⟨b.toNat, b.isLt⟩

/-- The check is the bits of the bytes fed into a register that starts at FFFFh. -/
theorem checkOf_eq_bits (bytes : List Byte) :
    checkOf bytes = (bytes.flatMap fun b => (List.range 8).map b.getMsbD).foldl crcFeed 0xFFFF#16 := by
  rw [checkOf, List.foldl_flatMap]
  congr 1
  funext c b
  exact crcByte_eq_bits c b

/-- The check bytes are the high and the low byte of the check. -/
theorem checkBytes_eq (c : BitVec 16) :
    checkBytes c = [BitVec.ofNat 8 (c.toNat / 256), BitVec.ofNat 8 (c.toNat % 256)] := by
  unfold checkBytes
  congr 1
  · apply BitVec.eq_of_toNat_eq
    simp [BitVec.extractLsb'_toNat, Nat.shiftRight_eq_div_pow]
  · congr 1
    apply BitVec.eq_of_toNat_eq
    simp [BitVec.extractLsb'_toNat]

/-- The check of a complete frame matches when the two bytes after the payload are the high and the low byte of the check
over the bytes from the kind to the payload. -/
theorem checkMatches_iff {bytes : List Byte} (h : rxProgress bytes = .complete) :
    checkMatches bytes = true ↔
      let n := declaredLength bytes
      let c := checkOf ((bytes.drop 1).take (6 + n))
      (bytes.getD (7 + n) 0).toNat = c.toNat / 256 ∧ (bytes.getD (8 + n) 0).toNat = c.toNat % 256 := by
  have hl := (rxProgress_eq_complete.1 h).2.2
  change 9 + declaredLength bytes ≤ bytes.length at hl
  unfold checkMatches
  dsimp only
  generalize declaredLength bytes = n at hl
  generalize checkOf ((bytes.drop 1).take (6 + n)) = c
  have two : (bytes.drop (7 + n)).take 2 = [bytes.getD (7 + n) 0, bytes.getD (8 + n) 0] := by
    have l₁ : 7 + n < bytes.length := by omega
    have l₂ : 8 + n < bytes.length := by omega
    rw [List.drop_eq_getElem_cons l₁, List.take_succ_cons, List.drop_eq_getElem_cons (by omega), List.take_succ_cons]
    simp [List.getD_eq_getElem?_getD, l₁, l₂, show 7 + n + 1 = 8 + n by omega]
  have same (x : Byte) (m : Nat) (hm : m < 256) : x = BitVec.ofNat 8 m ↔ x.toNat = m := by
    rw [BitVec.toNat_eq, BitVec.toNat_ofNat, Nat.mod_eq_of_lt hm]
  have := c.isLt
  rw [beq_iff_eq, checkBytes_eq, two]
  simp only [List.cons.injEq, and_true]
  rw [same _ _ (by omega), same _ _ (by omega)]

end Sys2Proof.Machine
end

