-- ==== Sys2Proof/Laws/Table.lean ====
section
/-! SUPPORT. What reading an entry gives after each way a table is made. -/

namespace Sys2Proof.Table

variable {α β : Type} {n : Nat}

theorem look_put (t : Table α n) (i j : Fin n) (a : α) : (t.put i a).look j = if j = i then a else t.look j := by
  unfold look put
  rw [Vector.get_eq_getElem, Vector.getElem_set]
  simp [Fin.ext_iff, eq_comm, Vector.get_eq_getElem]

@[simp] theorem look_put_self (t : Table α n) (i : Fin n) (a : α) : (t.put i a).look i = a := by simp [look_put]

theorem look_put_ne (t : Table α n) {i j : Fin n} (a : α) (h : j ≠ i) : (t.put i a).look j = t.look j := by
  simp [look_put, h]

@[simp] theorem look_mapAll (f : α → β) (t : Table α n) (i : Fin n) : (t.mapAll f).look i = f (t.look i) := by
  simp [look, mapAll, Vector.get_eq_getElem]

@[simp] theorem look_fill (a : α) (i : Fin n) : (Table.fill n a).look i = a := by
  simp [look, fill, Vector.get_eq_getElem]

/-- Two tables with the same entries are the same table. -/
theorem ext_look {t u : Table α n} (h : ∀ i, t.look i = u.look i) : t = u := by
  refine Vector.ext fun i hi => ?_
  simpa [look, Vector.get_eq_getElem] using h ⟨i, hi⟩

/-- Only the last value put at an entry counts. -/
@[simp] theorem put_put (t : Table α n) (i : Fin n) (a b : α) : (t.put i a).put i b = t.put i b :=
  ext_look fun j => by by_cases h : j = i <;> simp [look_put, h]

/-- Putting back the value that an entry has changes nothing. -/
@[simp] theorem put_look (t : Table α n) (i : Fin n) : t.put i (t.look i) = t :=
  ext_look fun j => by by_cases h : j = i <;> simp [look_put, h]

/-- Values put at different entries can be put in either order. -/
theorem put_comm (t : Table α n) {i j : Fin n} (a b : α) (h : i ≠ j) :
    (t.put i a).put j b = (t.put j b).put i a :=
  ext_look fun k => by
    by_cases hi : k = i <;> by_cases hj : k = j <;> simp_all [look_put]

end Sys2Proof.Table
end

