-- ==== Sys2Proof/Laws/State.lean ====
section
/-! SUPPORT. What each part of the state is after each replacement of a part: one lemma for each pair. -/

namespace Sys2Proof.Machine.State

variable (s : State)

/-! ### After setPort -/

@[simp] theorem setPort_pending (L : Link) (p : LinkPort) : (s.setPort L p).pending = s.pending := rfl
@[simp] theorem setPort_time (L : Link) (p : LinkPort) : (s.setPort L p).time = s.time := rfl
@[simp] theorem setPort_pool (L : Link) (p : LinkPort) : (s.setPort L p).pool = s.pool := rfl
@[simp] theorem setPort_table (L : Link) (p : LinkPort) : (s.setPort L p).table = s.table := rfl
@[simp] theorem setPort_reasm (L : Link) (p : LinkPort) : (s.setPort L p).reasm = s.reasm := rfl
@[simp] theorem setPort_sched (L : Link) (p : LinkPort) : (s.setPort L p).sched = s.sched := rfl
@[simp] theorem setPort_compose (L : Link) (p : LinkPort) : (s.setPort L p).compose = s.compose := rfl
@[simp] theorem setPort_notices (L : Link) (p : LinkPort) : (s.setPort L p).notices = s.notices := rfl
@[simp] theorem setPort_arbiter (L : Link) (p : LinkPort) : (s.setPort L p).arbiter = s.arbiter := rfl
@[simp] theorem setPort_host (L : Link) (p : LinkPort) : (s.setPort L p).host = s.host := rfl
@[simp] theorem setPort_inputs (L : Link) (p : LinkPort) : (s.setPort L p).inputs = s.inputs := rfl
@[simp] theorem setPort_port_self (L : Link) (p : LinkPort) : (s.setPort L p).port L = p := by
  simp [port, setPort]
theorem setPort_port (L : Link) (p : LinkPort) (M : Link) :
    (s.setPort L p).port M = if M = L then p else s.port M := by
  simp [port, setPort, Table.look_put]
@[simp] theorem setPort_sch (L : Link) (p : LinkPort) (M : Link) : (s.setPort L p).sch M = s.sch M := rfl
@[simp] theorem setPort_desc (L : Link) (p : LinkPort) (i : DescNo) : (s.setPort L p).desc i = s.desc i := rfl
@[simp] theorem setPort_ready (L : Link) (p : LinkPort) (M : Link) : (s.setPort L p).ready M = s.ready M := rfl
@[simp] theorem setPort_context (L : Link) (p : LinkPort) (i : EntryNo) : (s.setPort L p).context i = s.context i := rfl
@[simp] theorem setPort_history (L : Link) (p : LinkPort) (M : Link) : (s.setPort L p).history M = s.history M := rfl
@[simp] theorem setPort_now (L : Link) (p : LinkPort) : (s.setPort L p).now = s.now := rfl
@[simp] theorem setPort_setPort (L : Link) (p : LinkPort) (y : LinkPort) :
    (s.setPort L p).setPort L y = s.setPort L y := by
  simp [setPort]

/-! ### After setSch -/

@[simp] theorem setSch_pending (L : Link) (x : Scheduler) : (s.setSch L x).pending = s.pending := rfl
@[simp] theorem setSch_ports (L : Link) (x : Scheduler) : (s.setSch L x).ports = s.ports := rfl
@[simp] theorem setSch_time (L : Link) (x : Scheduler) : (s.setSch L x).time = s.time := rfl
@[simp] theorem setSch_pool (L : Link) (x : Scheduler) : (s.setSch L x).pool = s.pool := rfl
@[simp] theorem setSch_table (L : Link) (x : Scheduler) : (s.setSch L x).table = s.table := rfl
@[simp] theorem setSch_reasm (L : Link) (x : Scheduler) : (s.setSch L x).reasm = s.reasm := rfl
@[simp] theorem setSch_compose (L : Link) (x : Scheduler) : (s.setSch L x).compose = s.compose := rfl
@[simp] theorem setSch_notices (L : Link) (x : Scheduler) : (s.setSch L x).notices = s.notices := rfl
@[simp] theorem setSch_arbiter (L : Link) (x : Scheduler) : (s.setSch L x).arbiter = s.arbiter := rfl
@[simp] theorem setSch_host (L : Link) (x : Scheduler) : (s.setSch L x).host = s.host := rfl
@[simp] theorem setSch_inputs (L : Link) (x : Scheduler) : (s.setSch L x).inputs = s.inputs := rfl
@[simp] theorem setSch_port (L : Link) (x : Scheduler) (M : Link) : (s.setSch L x).port M = s.port M := rfl
@[simp] theorem setSch_sch_self (L : Link) (x : Scheduler) : (s.setSch L x).sch L = x := by
  simp [sch, setSch]
theorem setSch_sch (L : Link) (x : Scheduler) (M : Link) :
    (s.setSch L x).sch M = if M = L then x else s.sch M := by
  simp [sch, setSch, Table.look_put]
@[simp] theorem setSch_desc (L : Link) (x : Scheduler) (i : DescNo) : (s.setSch L x).desc i = s.desc i := rfl
@[simp] theorem setSch_ready (L : Link) (x : Scheduler) (M : Link) : (s.setSch L x).ready M = s.ready M := rfl
@[simp] theorem setSch_context (L : Link) (x : Scheduler) (i : EntryNo) : (s.setSch L x).context i = s.context i := rfl
@[simp] theorem setSch_history (L : Link) (x : Scheduler) (M : Link) : (s.setSch L x).history M = s.history M := rfl
@[simp] theorem setSch_now (L : Link) (x : Scheduler) : (s.setSch L x).now = s.now := rfl
@[simp] theorem setSch_setSch (L : Link) (x : Scheduler) (y : Scheduler) :
    (s.setSch L x).setSch L y = s.setSch L y := by
  simp [setSch]

/-! ### After setDesc -/

@[simp] theorem setDesc_pending (d : DescNo) (x : Descriptor) : (s.setDesc d x).pending = s.pending := rfl
@[simp] theorem setDesc_ports (d : DescNo) (x : Descriptor) : (s.setDesc d x).ports = s.ports := rfl
@[simp] theorem setDesc_time (d : DescNo) (x : Descriptor) : (s.setDesc d x).time = s.time := rfl
@[simp] theorem setDesc_pool (d : DescNo) (x : Descriptor) : (s.setDesc d x).pool = s.pool := rfl
@[simp] theorem setDesc_reasm (d : DescNo) (x : Descriptor) : (s.setDesc d x).reasm = s.reasm := rfl
@[simp] theorem setDesc_sched (d : DescNo) (x : Descriptor) : (s.setDesc d x).sched = s.sched := rfl
@[simp] theorem setDesc_compose (d : DescNo) (x : Descriptor) : (s.setDesc d x).compose = s.compose := rfl
@[simp] theorem setDesc_notices (d : DescNo) (x : Descriptor) : (s.setDesc d x).notices = s.notices := rfl
@[simp] theorem setDesc_arbiter (d : DescNo) (x : Descriptor) : (s.setDesc d x).arbiter = s.arbiter := rfl
@[simp] theorem setDesc_host (d : DescNo) (x : Descriptor) : (s.setDesc d x).host = s.host := rfl
@[simp] theorem setDesc_inputs (d : DescNo) (x : Descriptor) : (s.setDesc d x).inputs = s.inputs := rfl
@[simp] theorem setDesc_port (d : DescNo) (x : Descriptor) (M : Link) : (s.setDesc d x).port M = s.port M := rfl
@[simp] theorem setDesc_sch (d : DescNo) (x : Descriptor) (M : Link) : (s.setDesc d x).sch M = s.sch M := rfl
@[simp] theorem setDesc_desc_self (d : DescNo) (x : Descriptor) : (s.setDesc d x).desc d = x := by
  simp [desc, setDesc]
theorem setDesc_desc (d : DescNo) (x : Descriptor) (i : DescNo) :
    (s.setDesc d x).desc i = if i = d then x else s.desc i := by
  simp [desc, setDesc, Table.look_put]
@[simp] theorem setDesc_ready (d : DescNo) (x : Descriptor) (M : Link) : (s.setDesc d x).ready M = s.ready M := rfl
@[simp] theorem setDesc_context (d : DescNo) (x : Descriptor) (i : EntryNo) :
    (s.setDesc d x).context i = s.context i := rfl
@[simp] theorem setDesc_history (d : DescNo) (x : Descriptor) (M : Link) :
    (s.setDesc d x).history M = s.history M := rfl
@[simp] theorem setDesc_now (d : DescNo) (x : Descriptor) : (s.setDesc d x).now = s.now := rfl
@[simp] theorem setDesc_table_readyQueue (d : DescNo) (x : Descriptor) :
    (s.setDesc d x).table.readyQueue = s.table.readyQueue := rfl
@[simp] theorem setDesc_setDesc (d : DescNo) (x : Descriptor) (y : Descriptor) :
    (s.setDesc d x).setDesc d y = s.setDesc d y := by
  simp [setDesc]

/-! ### After setReady -/

@[simp] theorem setReady_pending (L : Link) (q : List DescNo) : (s.setReady L q).pending = s.pending := rfl
@[simp] theorem setReady_ports (L : Link) (q : List DescNo) : (s.setReady L q).ports = s.ports := rfl
@[simp] theorem setReady_time (L : Link) (q : List DescNo) : (s.setReady L q).time = s.time := rfl
@[simp] theorem setReady_pool (L : Link) (q : List DescNo) : (s.setReady L q).pool = s.pool := rfl
@[simp] theorem setReady_reasm (L : Link) (q : List DescNo) : (s.setReady L q).reasm = s.reasm := rfl
@[simp] theorem setReady_sched (L : Link) (q : List DescNo) : (s.setReady L q).sched = s.sched := rfl
@[simp] theorem setReady_compose (L : Link) (q : List DescNo) : (s.setReady L q).compose = s.compose := rfl
@[simp] theorem setReady_notices (L : Link) (q : List DescNo) : (s.setReady L q).notices = s.notices := rfl
@[simp] theorem setReady_arbiter (L : Link) (q : List DescNo) : (s.setReady L q).arbiter = s.arbiter := rfl
@[simp] theorem setReady_host (L : Link) (q : List DescNo) : (s.setReady L q).host = s.host := rfl
@[simp] theorem setReady_inputs (L : Link) (q : List DescNo) : (s.setReady L q).inputs = s.inputs := rfl
@[simp] theorem setReady_port (L : Link) (q : List DescNo) (M : Link) : (s.setReady L q).port M = s.port M := rfl
@[simp] theorem setReady_sch (L : Link) (q : List DescNo) (M : Link) : (s.setReady L q).sch M = s.sch M := rfl
@[simp] theorem setReady_desc (L : Link) (q : List DescNo) (i : DescNo) : (s.setReady L q).desc i = s.desc i := rfl
@[simp] theorem setReady_ready_self (L : Link) (q : List DescNo) : (s.setReady L q).ready L = q := by
  simp [ready, setReady]
theorem setReady_ready (L : Link) (q : List DescNo) (M : Link) :
    (s.setReady L q).ready M = if M = L then q else s.ready M := by
  simp [ready, setReady, Table.look_put]
@[simp] theorem setReady_context (L : Link) (q : List DescNo) (i : EntryNo) :
    (s.setReady L q).context i = s.context i := rfl
@[simp] theorem setReady_history (L : Link) (q : List DescNo) (M : Link) :
    (s.setReady L q).history M = s.history M := rfl
@[simp] theorem setReady_now (L : Link) (q : List DescNo) : (s.setReady L q).now = s.now := rfl
@[simp] theorem setReady_table_descriptors (L : Link) (q : List DescNo) :
    (s.setReady L q).table.descriptors = s.table.descriptors := rfl
@[simp] theorem setReady_setReady (L : Link) (q : List DescNo) (y : List DescNo) :
    (s.setReady L q).setReady L y = s.setReady L y := by
  simp [setReady]

/-! ### After setContext -/

@[simp] theorem setContext_pending (e : EntryNo) (c : Option Context) : (s.setContext e c).pending = s.pending := rfl
@[simp] theorem setContext_ports (e : EntryNo) (c : Option Context) : (s.setContext e c).ports = s.ports := rfl
@[simp] theorem setContext_time (e : EntryNo) (c : Option Context) : (s.setContext e c).time = s.time := rfl
@[simp] theorem setContext_pool (e : EntryNo) (c : Option Context) : (s.setContext e c).pool = s.pool := rfl
@[simp] theorem setContext_table (e : EntryNo) (c : Option Context) : (s.setContext e c).table = s.table := rfl
@[simp] theorem setContext_sched (e : EntryNo) (c : Option Context) : (s.setContext e c).sched = s.sched := rfl
@[simp] theorem setContext_compose (e : EntryNo) (c : Option Context) : (s.setContext e c).compose = s.compose := rfl
@[simp] theorem setContext_notices (e : EntryNo) (c : Option Context) : (s.setContext e c).notices = s.notices := rfl
@[simp] theorem setContext_arbiter (e : EntryNo) (c : Option Context) : (s.setContext e c).arbiter = s.arbiter := rfl
@[simp] theorem setContext_host (e : EntryNo) (c : Option Context) : (s.setContext e c).host = s.host := rfl
@[simp] theorem setContext_inputs (e : EntryNo) (c : Option Context) : (s.setContext e c).inputs = s.inputs := rfl
@[simp] theorem setContext_port (e : EntryNo) (c : Option Context) (M : Link) :
    (s.setContext e c).port M = s.port M := rfl
@[simp] theorem setContext_sch (e : EntryNo) (c : Option Context) (M : Link) : (s.setContext e c).sch M = s.sch M := rfl
@[simp] theorem setContext_desc (e : EntryNo) (c : Option Context) (i : DescNo) :
    (s.setContext e c).desc i = s.desc i := rfl
@[simp] theorem setContext_ready (e : EntryNo) (c : Option Context) (M : Link) :
    (s.setContext e c).ready M = s.ready M := rfl
@[simp] theorem setContext_context_self (e : EntryNo) (c : Option Context) : (s.setContext e c).context e = c := by
  simp [context, setContext]
theorem setContext_context (e : EntryNo) (c : Option Context) (i : EntryNo) :
    (s.setContext e c).context i = if i = e then c else s.context i := by
  simp [context, setContext, Table.look_put]
@[simp] theorem setContext_history (e : EntryNo) (c : Option Context) (M : Link) :
    (s.setContext e c).history M = s.history M := rfl
@[simp] theorem setContext_now (e : EntryNo) (c : Option Context) : (s.setContext e c).now = s.now := rfl
@[simp] theorem setContext_reasm_quota (e : EntryNo) (c : Option Context) :
    (s.setContext e c).reasm.quota = s.reasm.quota := rfl
@[simp] theorem setContext_reasm_lifetime (e : EntryNo) (c : Option Context) :
    (s.setContext e c).reasm.lifetime = s.reasm.lifetime := rfl
@[simp] theorem setContext_reasm_history (e : EntryNo) (c : Option Context) :
    (s.setContext e c).reasm.history = s.reasm.history := rfl
@[simp] theorem setContext_setContext (e : EntryNo) (c : Option Context) (y : Option Context) :
    (s.setContext e c).setContext e y = s.setContext e y := by
  simp [setContext]

/-! ### After setHistory -/

@[simp] theorem setHistory_pending (L : Link) (h : List Key) : (s.setHistory L h).pending = s.pending := rfl
@[simp] theorem setHistory_ports (L : Link) (h : List Key) : (s.setHistory L h).ports = s.ports := rfl
@[simp] theorem setHistory_time (L : Link) (h : List Key) : (s.setHistory L h).time = s.time := rfl
@[simp] theorem setHistory_pool (L : Link) (h : List Key) : (s.setHistory L h).pool = s.pool := rfl
@[simp] theorem setHistory_table (L : Link) (h : List Key) : (s.setHistory L h).table = s.table := rfl
@[simp] theorem setHistory_sched (L : Link) (h : List Key) : (s.setHistory L h).sched = s.sched := rfl
@[simp] theorem setHistory_compose (L : Link) (h : List Key) : (s.setHistory L h).compose = s.compose := rfl
@[simp] theorem setHistory_notices (L : Link) (h : List Key) : (s.setHistory L h).notices = s.notices := rfl
@[simp] theorem setHistory_arbiter (L : Link) (h : List Key) : (s.setHistory L h).arbiter = s.arbiter := rfl
@[simp] theorem setHistory_host (L : Link) (h : List Key) : (s.setHistory L h).host = s.host := rfl
@[simp] theorem setHistory_inputs (L : Link) (h : List Key) : (s.setHistory L h).inputs = s.inputs := rfl
@[simp] theorem setHistory_port (L : Link) (h : List Key) (M : Link) : (s.setHistory L h).port M = s.port M := rfl
@[simp] theorem setHistory_sch (L : Link) (h : List Key) (M : Link) : (s.setHistory L h).sch M = s.sch M := rfl
@[simp] theorem setHistory_desc (L : Link) (h : List Key) (i : DescNo) : (s.setHistory L h).desc i = s.desc i := rfl
@[simp] theorem setHistory_ready (L : Link) (h : List Key) (M : Link) : (s.setHistory L h).ready M = s.ready M := rfl
@[simp] theorem setHistory_context (L : Link) (h : List Key) (i : EntryNo) :
    (s.setHistory L h).context i = s.context i := rfl
@[simp] theorem setHistory_history_self (L : Link) (h : List Key) : (s.setHistory L h).history L = h := by
  simp [history, setHistory]
theorem setHistory_history (L : Link) (h : List Key) (M : Link) :
    (s.setHistory L h).history M = if M = L then h else s.history M := by
  simp [history, setHistory, Table.look_put]
@[simp] theorem setHistory_now (L : Link) (h : List Key) : (s.setHistory L h).now = s.now := rfl
@[simp] theorem setHistory_reasm_quota (L : Link) (h : List Key) : (s.setHistory L h).reasm.quota = s.reasm.quota := rfl
@[simp] theorem setHistory_reasm_lifetime (L : Link) (h : List Key) :
    (s.setHistory L h).reasm.lifetime = s.reasm.lifetime := rfl
@[simp] theorem setHistory_reasm_contexts (L : Link) (h : List Key) :
    (s.setHistory L h).reasm.contexts = s.reasm.contexts := rfl
@[simp] theorem setHistory_setHistory (L : Link) (h : List Key) (y : List Key) :
    (s.setHistory L h).setHistory L y = s.setHistory L y := by
  simp [setHistory]

/-! ### Replacing a part by itself -/

@[simp] theorem setPort_port_eq (L : Link) : s.setPort L (s.port L) = s := by simp [setPort, port]
@[simp] theorem setSch_sch_eq (L : Link) : s.setSch L (s.sch L) = s := by simp [setSch, sch]
@[simp] theorem setDesc_desc_eq (d : DescNo) : s.setDesc d (s.desc d) = s := by simp [setDesc, desc]
@[simp] theorem setReady_ready_eq (L : Link) : s.setReady L (s.ready L) = s := by simp [setReady, ready]
@[simp] theorem setContext_context_eq (e : EntryNo) : s.setContext e (s.context e) = s := by simp [setContext, context]
@[simp] theorem setHistory_history_eq (L : Link) : s.setHistory L (s.history L) = s := by simp [setHistory, history]

end Sys2Proof.Machine.State
end

