-- ==== Sys2Proof/Laws/Ops.lean ====
section
/-! SUPPORT. What each shared operation can do: one lemma that says all of it, and the frame of what it leaves. -/

namespace Sys2Proof.Machine

/-! ### Blocks -/

/-- A grant takes the block at the head of the free list and changes the pool alone. -/
theorem grantBlock_eq_some {s t : State} {b : BlockNo} :
    grantBlock s = some (b, t) ↔ ∃ rest, s.pool.freeList = b :: rest ∧
      t = { s with pool := { s.pool with freeList := rest, usedLength := s.pool.usedLength.put b 0 } } := by
  cases h : s.pool.freeList <;> simp [grantBlock, h]
  aesop

theorem grantBlock_eq_none {s : State} : grantBlock s = none ↔ s.pool.freeList = [] := by
  cases h : s.pool.freeList <;> simp [grantBlock, h]

/-- A reassembly claim is a grant, made above the reserve and below the ceiling. -/
theorem reassemblyClaim_eq_some {L : Link} {s t : State} {b : BlockNo} :
    reassemblyClaim L s = some (b, t) ↔
      s.pool.reserve < s.pool.freeList.length ∧ s.inboundHold L < s.pool.ceiling.look L ∧
        grantBlock s = some (b, t) := by
  unfold reassemblyClaim; split <;> simp_all

/-- A reassembly claim is refused at the reserve, at the ceiling, and with no block free. -/
theorem reassemblyClaim_eq_none {L : Link} {s : State} :
    reassemblyClaim L s = none ↔
      ¬ (s.pool.reserve < s.pool.freeList.length ∧ s.inboundHold L < s.pool.ceiling.look L) := by
  unfold reassemblyClaim; split
  · rename_i h
    have : s.pool.freeList ≠ [] := fun he => by simp [he] at h
    simp [grantBlock_eq_none, this, h]
  · simp_all

/-- The used lengths after a return are 0 at the returned blocks and as before elsewhere. -/
theorem look_foldl_put_zero (bs : List BlockNo) (u : Table Nat 512) (b : BlockNo) :
    (bs.foldl (fun u b => u.put b 0) u).look b = if b ∈ bs then 0 else u.look b := by
  induction bs generalizing u with
  | nil => simp
  | cons c bs ih =>
    rw [List.foldl_cons, ih]
    by_cases h : b ∈ bs <;> by_cases hc : b = c <;> simp [h, hc, Table.look_put]

@[simp] theorem returnBlocks_nil (s : State) : returnBlocks [] s = s := by simp [returnBlocks]

/-- Returns one after another are one return of all the blocks. -/
theorem returnBlocks_returnBlocks (bs cs : List BlockNo) (s : State) :
    returnBlocks cs (returnBlocks bs s) = returnBlocks (bs ++ cs) s := by simp [returnBlocks]

/-- A return changes the free list and the used lengths alone. -/
theorem returnBlocks_eq (bs : List BlockNo) (s : State) : ∃ u : Table Nat 512,
    (∀ b, u.look b = if b ∈ bs then 0 else s.pool.usedLength.look b) ∧
    returnBlocks bs s = { s with pool := { s.pool with freeList := s.pool.freeList ++ bs, usedLength := u } } :=
  ⟨_, look_foldl_put_zero bs s.pool.usedLength, rfl⟩

@[simp] theorem returnBlocks_freeList (bs : List BlockNo) (s : State) :
    (returnBlocks bs s).pool.freeList = s.pool.freeList ++ bs := rfl
@[simp] theorem returnBlocks_blocks (bs : List BlockNo) (s : State) :
    (returnBlocks bs s).pool.blocks = s.pool.blocks := rfl
@[simp] theorem returnBlocks_ceiling (bs : List BlockNo) (s : State) :
    (returnBlocks bs s).pool.ceiling = s.pool.ceiling := rfl
@[simp] theorem returnBlocks_pending (bs : List BlockNo) (s : State) : (returnBlocks bs s).pending = s.pending := rfl
@[simp] theorem returnBlocks_ports (bs : List BlockNo) (s : State) : (returnBlocks bs s).ports = s.ports := rfl
@[simp] theorem returnBlocks_port (bs : List BlockNo) (s : State) (L : Link) :
    (returnBlocks bs s).port L = s.port L := rfl
@[simp] theorem returnBlocks_time (bs : List BlockNo) (s : State) : (returnBlocks bs s).time = s.time := rfl
@[simp] theorem returnBlocks_now (bs : List BlockNo) (s : State) : (returnBlocks bs s).now = s.now := rfl
@[simp] theorem returnBlocks_table (bs : List BlockNo) (s : State) : (returnBlocks bs s).table = s.table := rfl
@[simp] theorem returnBlocks_desc (bs : List BlockNo) (s : State) (d : DescNo) :
    (returnBlocks bs s).desc d = s.desc d := rfl
@[simp] theorem returnBlocks_ready (bs : List BlockNo) (s : State) (L : Link) :
    (returnBlocks bs s).ready L = s.ready L := rfl
@[simp] theorem returnBlocks_reasm (bs : List BlockNo) (s : State) : (returnBlocks bs s).reasm = s.reasm := rfl
@[simp] theorem returnBlocks_context (bs : List BlockNo) (s : State) (e : EntryNo) :
    (returnBlocks bs s).context e = s.context e := rfl
@[simp] theorem returnBlocks_history (bs : List BlockNo) (s : State) (L : Link) :
    (returnBlocks bs s).history L = s.history L := rfl
@[simp] theorem returnBlocks_sched (bs : List BlockNo) (s : State) : (returnBlocks bs s).sched = s.sched := rfl
@[simp] theorem returnBlocks_sch (bs : List BlockNo) (s : State) (L : Link) :
    (returnBlocks bs s).sch L = s.sch L := rfl
@[simp] theorem returnBlocks_compose (bs : List BlockNo) (s : State) : (returnBlocks bs s).compose = s.compose := rfl
@[simp] theorem returnBlocks_notices (bs : List BlockNo) (s : State) : (returnBlocks bs s).notices = s.notices := rfl
@[simp] theorem returnBlocks_arbiter (bs : List BlockNo) (s : State) : (returnBlocks bs s).arbiter = s.arbiter := rfl
@[simp] theorem returnBlocks_host (bs : List BlockNo) (s : State) : (returnBlocks bs s).host = s.host := rfl
@[simp] theorem returnBlocks_inputs (bs : List BlockNo) (s : State) : (returnBlocks bs s).inputs = s.inputs := rfl

/-! ### Descriptors -/

/-- The lowest-numbered FREE descriptor is FREE, and none below it is. -/
theorem lowestFree_eq_some {s : State} {d : DescNo} :
    s.lowestFree = some d ↔ (s.desc d).state = .free ∧ ∀ d' < d, (s.desc d').state ≠ .free := by
  unfold State.lowestFree
  rw [List.find?_eq_some_iff_getElem]
  constructor
  · rintro ⟨h, i, hi, rfl, hlt⟩
    refine ⟨by simpa using h, fun d' hd' => ?_⟩
    have := hlt d'.val (by simpa [Fin.lt_def] using hd')
    simpa using this
  · rintro ⟨h, hlt⟩
    refine ⟨by simpa using h, d.val, by simp, by simp, fun j hj => ?_⟩
    have := hlt ⟨j, by omega⟩ (by simpa [Fin.lt_def] using hj)
    simpa using this

/-- There is no FREE descriptor exactly when every descriptor is in use. -/
theorem lowestFree_eq_none {s : State} : s.lowestFree = none ↔ ∀ d, (s.desc d).state ≠ .free := by
  simp [State.lowestFree, List.find?_eq_none]

/-- The free descriptor count is 0 exactly when every descriptor is in use. -/
theorem freeDescriptors_eq_zero {s : State} : s.freeDescriptors = 0 ↔ ∀ d, (s.desc d).state ≠ .free := by
  simp [State.freeDescriptors, List.countP_eq_zero]

/-- A descriptor claim fills the lowest-numbered FREE descriptor with the record of the claim, and nothing else. -/
theorem claimDescriptor_eq_some {x : Descriptor} {s t : State} {d : DescNo} :
    claimDescriptor x s = some (d, t) ↔ s.lowestFree = some d ∧ t = s.setDesc d x := by
  unfold claimDescriptor
  cases s.lowestFree <;> simp
  aesop

theorem claimDescriptor_eq_none {x : Descriptor} {s : State} :
    claimDescriptor x s = none ↔ s.lowestFree = none := by
  simp [claimDescriptor]

/-- The end of a message returns its chain, clears its descriptor, and changes nothing else. -/
theorem freeMessage_eq (d : DescNo) (s : State) :
    freeMessage d s = (returnBlocks (s.desc d).chain s).setDesc d .cleared := rfl

/-- Messages that end one after another return their chains in this order, and only their descriptors change. -/
theorem freeMessages_eq (ds : List DescNo) (h : ds.Nodup) (s : State) :
    ∃ D : Table Descriptor 96, (∀ d, D.look d = if d ∈ ds then .cleared else s.desc d) ∧
      freeMessages ds s =
        { returnBlocks (ds.flatMap fun d => (s.desc d).chain) s with
          table := { s.table with descriptors := D } } := by
  induction ds generalizing s with
  | nil => exact ⟨s.table.descriptors, fun d => by simp [State.desc], by simp [freeMessages]⟩
  | cons d ds ih =>
    obtain ⟨hd, hn⟩ := List.nodup_cons.1 h
    obtain ⟨D, hD, he⟩ := ih hn (freeMessage d s)
    refine ⟨D, fun i => ?_, ?_⟩
    · rw [hD]
      by_cases hi : i ∈ ds <;> by_cases hid : i = d <;>
        simp [hi, hid, freeMessage_eq, State.setDesc_desc]
    · have hc : (ds.flatMap fun i => ((freeMessage d s).desc i).chain) = ds.flatMap fun i => (s.desc i).chain := by
        refine List.flatMap_congr fun i hi => ?_
        have : i ≠ d := fun h => hd (h ▸ hi)
        simp [freeMessage_eq, State.setDesc_desc, this]
      rw [freeMessages, he, hc, List.flatMap_cons]
      simp [freeMessage_eq, State.setDesc, returnBlocks]

/-! ### Contexts -/

/-- The entry found for a key holds a context with it. -/
theorem findContext_eq_some {s : State} {L : Link} {origin : Byte} {tag : Tag} {e : EntryNo}
    (h : s.findContext L origin tag = some e) :
    ∃ c, s.context e = some c ∧ c.link = L ∧ c.origin = origin ∧ c.tag = tag := by
  have := List.find?_some h
  cases hc : s.context e <;> simp_all

/-- No entry is found for a key exactly when no context holds it. -/
theorem findContext_eq_none {s : State} {L : Link} {origin : Byte} {tag : Tag} :
    s.findContext L origin tag = none ↔
      ∀ e c, s.context e = some c → ¬ (c.link = L ∧ c.origin = origin ∧ c.tag = tag) := by
  simp only [State.findContext, List.find?_eq_none, List.mem_finRange, true_implies]
  refine forall_congr' fun e => ?_
  cases s.context e <;> simp

/-- The entry given to a new context is FREE. -/
theorem freeEntry_eq_some {s : State} {e : EntryNo} (h : s.freeEntry = some e) : s.context e = none := by
  simpa using List.find?_some h

/-- An abandoned context returns its blocks, and its descriptor and its entry are cleared; nothing else changes. -/
theorem abandonContext_eq {e : EntryNo} {c : Context} {s : State} (h : s.context e = some c) :
    abandonContext e s = ((returnBlocks (slotBlocks c) s).setDesc c.descriptor .cleared).setContext e none := by
  simp [abandonContext, h, freeDescriptor]

theorem abandonContext_of_none {e : EntryNo} {s : State} (h : s.context e = none) : abandonContext e s = s := by
  simp [abandonContext, h]

/-! ### Notices, counters and requests -/

/-- A record offered to the notice queue changes the notice queue alone. -/
theorem recordNotice_eq (n : Notice) (s : State) :
    recordNotice n s = { s with notices := (recordNotice n s).notices } := by
  unfold recordNotice; split <;> rfl

/-- The record joins the tail while there is room, and is lost and counted otherwise. -/
theorem recordNotice_notices (n : Notice) (s : State) :
    (recordNotice n s).notices =
      if s.notices.records.length < 32 then { s.notices with records := s.notices.records ++ [n] }
      else { s.notices with overflow := min 255 (s.notices.overflow + 1) } := by
  unfold recordNotice; split <;> rfl

/-- Counting a cause changes the port of its link alone. -/
theorem count_eq (L : Link) (c : CounterName) (s : State) :
    count L c s = s.setPort L { s.port L with counters := (s.port L).counters.bump c } := rfl

/-- A request changes the port of its link alone. -/
theorem joinRequest_eq (L : Link) (r : Request) (s : State) :
    joinRequest L r s = s.setPort L
      (if (s.port L).controlQueue.length < 8 then
        { s.port L with controlQueue := (s.port L).controlQueue ++ [r] }
      else { s.port L with counters := (s.port L).counters.bump .controlLost }) := by
  unfold joinRequest; split <;> simp_all [count]

/-- A counter never falls, and one that is at most 255 stays so. -/
theorem saturate_le (n : Nat) : saturate n ≤ 255 := by simp [saturate]

/-! ### Outbound messages -/

/-- The end of an outbound message: it leaves its scheduler, its chain is returned and its descriptor is cleared. -/
theorem endOutbound_eq (L : Link) (d : DescNo) (s : State) :
    endOutbound L d s =
      ((returnBlocks (s.desc d).chain s).setDesc d .cleared).setSch L
        { s.sch L with
          outboundQueue := (s.sch L).outboundQueue.filter (· ≠ d)
          resendOrder := (s.sch L).resendOrder.filter (· ≠ d)
          outstanding := (s.sch L).outstanding.filter (· ≠ d)
          lineRecord := dropFromLine d (s.sch L).lineRecord } := rfl

/-- The message found for a frame is outstanding, from the peer and with the tag of the frame. -/
theorem matching_eq_some {s : State} {L : Link} {origin : Byte} {tag : Tag} {d : DescNo}
    (h : s.matching L origin tag = some d) :
    d ∈ (s.sch L).outstanding ∧ (s.desc d).peer = origin ∧ (s.desc d).tag = some tag := by
  have := List.find?_some h
  simp only [Bool.and_eq_true, beq_iff_eq] at this
  exact ⟨List.mem_of_find?_eq_some h, this.1, this.2⟩

/-- The SENDING message found for a link is outstanding and SENDING. -/
theorem sendingOf_eq_some {s : State} {L : Link} {d : DescNo} (h : s.sendingOf L = some d) :
    d ∈ (s.sch L).outstanding ∧ (s.desc d).state = .sending :=
  ⟨List.mem_of_find?_eq_some h, by simpa using List.find?_some h⟩

/-! ### Accesses of the host -/

/-- While the RESET line is held low, a command of the command register does nothing. -/
theorem issueCommand_resetLow {code : Byte} {body : State → State × CommandOutcome} {s : State}
    (h : s.host.resetLow = true) : issueCommand code body s = s := by simp [issueCommand, hostWrite, h]

/-- During initialisation a command is answered with NOT_READY. -/
theorem issueCommand_initialising {code : Byte} {body : State → State × CommandOutcome} {s : State}
    (h : s.host.resetLow = false) (hd : s.host.device = .initialising) :
    issueCommand code body s = recordOutcome code .notReady s := by simp [issueCommand, hostWrite, h, hd]

/-- In READY a command does what its own rule says, and its outcome is recorded. -/
theorem issueCommand_operational {code : Byte} {body : State → State × CommandOutcome} {s : State}
    (h : s.operational) : issueCommand code body s = recordOutcome code (body s).2 (body s).1 := by
  simp [issueCommand, hostWrite, h.1, h.2]

/-- A write has its effect while the RESET line is high, and none while it is held low. -/
theorem hostWrite_high {effect : State → State} {s : State} (h : s.host.resetLow = false) :
    hostWrite effect s = effect s := by simp [hostWrite, h]
theorem hostWrite_low {effect : State → State} {s : State} (h : s.host.resetLow = true) :
    hostWrite effect s = s := by simp [hostWrite, h]

/-- A read drives its value; its other effect takes place while the RESET line is high. -/
theorem hostRead_high {value : State → Byte} {effect : State → State} {s : State} (h : s.host.resetLow = false) :
    hostRead value effect s = driveBus (value s) (effect s) := by simp [hostRead, h]
theorem hostRead_low {value : State → Byte} {effect : State → State} {s : State} (h : s.host.resetLow = true) :
    hostRead value effect s = driveBus (value s) s := by simp [hostRead, h]

/-- The link that P0 names has the number in P0. -/
theorem linkParameter_eq_some {s : State} {L : Link} : s.linkParameter = some L ↔ s.host.p0.toNat = L.val := by
  unfold State.linkParameter
  split
  · simp [Fin.ext_iff]
  · simp; omega

theorem linkParameter_eq_none {s : State} : s.linkParameter = none ↔ 4 ≤ s.host.p0.toNat := by
  unfold State.linkParameter; split <;> simp <;> omega

end Sys2Proof.Machine
end

