-- ==== Sys2Proof/Laws/Lookup.lean ====
section
/-! SUPPORT. What the searches of the tables find: contexts, free entries and descriptors, and outstanding
messages. -/

namespace Sys2Proof.Machine

/-- A search in ascending order finds the lowest number that passes. -/
theorem find?_finRange_eq_some {n : Nat} (p : Fin n → Bool) (a : Fin n) :
    (List.finRange n).find? p = some a ↔ p a = true ∧ ∀ b < a, p b = false := by
  constructor
  · intro h
    refine ⟨List.find?_some h, fun b hb => ?_⟩
    rw [List.find?_eq_some_iff_getElem] at h
    obtain ⟨_, i, hi, rfl, h⟩ := h
    simpa using h b.val (by simpa [Fin.lt_def] using hb)
  · rintro ⟨h, k⟩
    rw [List.find?_eq_some_iff_getElem]
    refine ⟨h, a.val, by simp, by simp, fun j hj => ?_⟩
    simpa using k ⟨j, by omega⟩ (by simpa [Fin.lt_def] using hj)

/-! ### Contexts and descriptors -/

theorem entryOfLink_iff {s : State} {L : Link} {e : EntryNo} :
    s.entryOfLink L e = true ↔ (s.context e).map (·.link) = some L := by
  unfold State.entryOfLink
  cases s.context e <;> simp

theorem findContext_eq_some_iff {s : State} {L : Link} {origin : Byte} {tag : Tag} {e : EntryNo} :
    s.findContext L origin tag = some e ↔
      (∃ c, s.context e = some c ∧ c.link = L ∧ c.origin = origin ∧ c.tag = tag) ∧
        ∀ e' < e, ∀ c, s.context e' = some c → ¬ (c.link = L ∧ c.origin = origin ∧ c.tag = tag) := by
  unfold State.findContext
  rw [find?_finRange_eq_some]
  refine and_congr ?_ (forall_congr' fun e' => imp_congr_right fun _ => ?_)
  · cases s.context e <;> simp [and_assoc]
  · cases s.context e' <;> simp

theorem freeEntry_eq_some_iff {s : State} {e : EntryNo} :
    s.freeEntry = some e ↔ s.context e = none ∧ ∀ e' < e, s.context e' ≠ none := by
  unfold State.freeEntry
  rw [find?_finRange_eq_some]
  simp [Option.isNone_iff_eq_none, Option.ne_none_iff_isSome]

theorem freeEntry_eq_none {s : State} : s.freeEntry = none ↔ ∀ e, s.context e ≠ none := by
  unfold State.freeEntry
  simp [Option.isNone_iff_eq_none, Option.ne_none_iff_isSome]

/-- A fragment conflicts with its context by one of the three conditions of R75. -/
theorem conflicts_iff {c : Context} {f : Fragment} :
    conflicts c f = true ↔
      (∃ n, c.final = some n ∧ n < f.number) ∨ (f.final = true ∧ ∃ n, c.final = some n ∧ n ≠ f.number) ∨
        (f.final = true ∧ ∃ m, c.received.look m = true ∧ f.number < m) := by
  unfold conflicts
  cases c.final <;> simp [or_assoc]

/-! ### Outstanding messages -/

theorem matching_eq_some_iff {s : State} {L : Link} {origin : Byte} {tag : Tag} {d : DescNo} :
    s.matching L origin tag = some d ↔
      ∃ older younger, (s.sch L).outstanding = older ++ d :: younger ∧
        ((s.desc d).peer = origin ∧ (s.desc d).tag = some tag) ∧
        ∀ d' ∈ older, ¬ ((s.desc d').peer = origin ∧ (s.desc d').tag = some tag) := by
  unfold State.matching
  rw [List.find?_eq_some_iff_append]
  simp only [Bool.and_eq_true, beq_iff_eq, Bool.not_eq_true', Bool.eq_false_iff, ne_eq]
  constructor
  · rintro ⟨h, a, b, e, k⟩
    exact ⟨a, b, e, h, fun x hx => by simpa using k x hx⟩
  · rintro ⟨a, b, e, h, k⟩
    exact ⟨h, a, b, e, fun x hx => by simpa using k x hx⟩

theorem matching_eq_none {s : State} {L : Link} {origin : Byte} {tag : Tag} :
    s.matching L origin tag = none ↔
      ∀ d ∈ (s.sch L).outstanding, ¬ ((s.desc d).peer = origin ∧ (s.desc d).tag = some tag) := by
  unfold State.matching
  simp

theorem sendingOf_eq_some_iff {s : State} {L : Link} {d : DescNo} :
    s.sendingOf L = some d ↔
      ∃ older younger, (s.sch L).outstanding = older ++ d :: younger ∧ (s.desc d).state = .sending ∧
        ∀ d' ∈ older, (s.desc d').state ≠ .sending := by
  unfold State.sendingOf
  rw [List.find?_eq_some_iff_append]
  constructor
  · rintro ⟨h, a, b, e, k⟩
    exact ⟨a, b, e, by simpa using h, fun x hx => by simpa using k x hx⟩
  · rintro ⟨a, b, e, h, k⟩
    exact ⟨by simpa using h, a, b, e, fun x hx => by simpa using k x hx⟩

theorem sendingOf_eq_none {s : State} {L : Link} :
    s.sendingOf L = none ↔ ∀ d ∈ (s.sch L).outstanding, (s.desc d).state ≠ .sending := by
  unfold State.sendingOf
  simp

theorem offer_eq_none {s : State} {L : Link} :
    s.offer L = none ↔ s.sendingOf L = none ∧ (s.sch L).resendOrder = [] ∧
      ((s.sch L).outboundQueue = [] ∨ (s.sch L).outstandingLimit ≤ (s.sch L).outstanding.length) := by
  unfold State.offer
  cases s.sendingOf L <;> cases (s.sch L).resendOrder <;> cases (s.sch L).outboundQueue <;> simp

end Sys2Proof.Machine
end

