-- ==== Sys2Proof/Laws/Memory.lean ====
section
/-! SUPPORT. The memory of the block pool: a read after a write, and the canonical form. -/

namespace Sys2Proof.Machine

/-- An address that no entry lists reads as the background. -/
theorem Memory.read_of_not_mem {m : List Host.Cell} {k : Nat} (h : ∀ c ∈ m, c.1 ≠ k) :
    Memory.read m k = Memory.background := by
  induction m with
  | nil => rfl
  | cons c m ih =>
    have hc : c.1 ≠ k := h c (by simp)
    simp [Memory.read, hc, ih fun d hd => h d (by simp [hd])]

/-- The written address reads the value written, and every other address reads as before. -/
theorem Memory.read_write {m : List Host.Cell} (hm : Memory.wf m) (k a : Nat) (v : Byte) :
    Memory.read (Memory.write m k v) a = if a = k then v else Memory.read m a := by
  induction m with
  | nil =>
    by_cases hv : v = 0#8 <;> by_cases ha : a = k
    all_goals first
      | (simp [Memory.write, Memory.read, hv, ha]; done)
      | simp [Memory.write, Memory.read, hv, ha, Ne.symm ha]
  | cons c m ih =>
    obtain ⟨b, x⟩ := c
    obtain ⟨hp, hb⟩ := hm
    rw [List.pairwise_cons] at hp
    have ih := ih ⟨hp.2, fun d hd => hb d (by simp [hd])⟩
    have hk : ∀ j, j ≤ b → Memory.read m j = Memory.background := fun j hj =>
      Memory.read_of_not_mem fun d hd => by have := hp.1 d hd; simp at this; omega
    rcases lt_trichotomy k b with h | h | h
    · by_cases hv : v = 0#8
      · by_cases ha : a = k
        · subst ha; simp [Memory.write, h, hv, Memory.read, (Nat.ne_of_lt h).symm, hk a h.le]
        · simp [Memory.write, h, hv, ha]
      · by_cases ha : a = k
        · simp [Memory.write, h, hv, Memory.read, ha]
        · simp [Memory.write, h, hv, Memory.read, ha, Ne.symm ha]
    · subst h
      by_cases hv : v = 0#8
      · by_cases ha : a = k
        · subst ha; simp [Memory.write, hv, hk a le_rfl]
        · simp [Memory.write, hv, ha, Memory.read, Ne.symm ha]
      · by_cases ha : a = k
        · simp [Memory.write, hv, Memory.read, ha]
        · simp [Memory.write, hv, Memory.read, ha, Ne.symm ha]
    · have h1 : ¬ k < b := by omega
      have h2 : k ≠ b := by omega
      by_cases ha : a = b
      · have : a ≠ k := by omega
        simp [Memory.write, h1, h2, Memory.read, ha, h2.symm]
      · simp [Memory.write, h1, h2, Memory.read, Ne.symm ha, ih]

/-- Every entry of a written memory is one that was there or the one written. -/
theorem Memory.mem_write {m : List Host.Cell} {k : Nat} {v : Byte} {c : Host.Cell}
    (h : c ∈ Memory.write m k v) : c ∈ m ∨ (c = (k, v) ∧ v ≠ Memory.background) := by
  induction m with
  | nil => by_cases hv : v = 0#8 <;> simp_all [Memory.write]
  | cons d m ih =>
    obtain ⟨b, x⟩ := d
    simp only [Memory.write] at h
    split at h
    · split at h <;> simp_all; tauto
    · split at h
      · split at h <;> simp_all; tauto
      · simp only [List.mem_cons] at h ⊢; tauto

/-- A write keeps the canonical form. -/
theorem Memory.write_wf {m : List Host.Cell} (hm : Memory.wf m) (k : Nat) (v : Byte) :
    Memory.wf (Memory.write m k v) := by
  refine ⟨?_, fun c hc => (Memory.mem_write hc).elim (hm.2 c) fun h => by simpa [h.1] using h.2⟩
  have hp := hm.1
  clear hm
  induction m with
  | nil => by_cases hv : v = 0#8 <;> simp [Memory.write, hv]
  | cons d m ih =>
    obtain ⟨b, x⟩ := d
    rw [List.pairwise_cons] at hp
    rcases lt_trichotomy k b with h | h | h
    · by_cases hv : v = 0#8
      · simpa [Memory.write, h, hv] using hp
      · rw [Memory.write, if_pos h, if_neg (show ¬ v = Memory.background from hv), List.pairwise_cons]
        refine ⟨fun c hc => ?_, List.pairwise_cons.2 hp⟩
        rcases List.mem_cons.1 hc with rfl | hc
        · exact h
        · exact h.trans (hp.1 c hc)
    · subst h
      by_cases hv : v = 0#8
      · simpa [Memory.write, hv] using hp.2
      · simpa [Memory.write, hv] using hp
    · have h1 : ¬ k < b := by omega
      have h2 : k ≠ b := by omega
      simp only [Memory.write, h1, h2, if_false, List.pairwise_cons]
      refine ⟨fun c hc => ?_, ih hp.2⟩
      rcases Memory.mem_write hc with hc | ⟨rfl, -⟩
      · exact hp.1 c hc
      · exact h

/-- A run of bytes stored keeps the canonical form. -/
theorem Memory.writeBytes_wf {m : List Host.Cell} (hm : Memory.wf m) (k : Nat) (vs : List Byte) :
    Memory.wf (Memory.writeBytes m k vs) := by
  induction vs generalizing m k with
  | nil => exact hm
  | cons v vs ih => exact ih (Memory.write_wf hm k v) (k + 1)

/-- A run of bytes stored reads back in its range, and every address outside it reads as before. -/
theorem Memory.read_writeBytes {m : List Host.Cell} (hm : Memory.wf m) (k a : Nat) (vs : List Byte) :
    Memory.read (Memory.writeBytes m k vs) a =
      if h : k ≤ a ∧ a < k + vs.length then vs[a - k]'(by omega) else Memory.read m a := by
  induction vs generalizing m k with
  | nil =>
    have h : ¬ (k ≤ a ∧ a < k + 0) := by omega
    simp [Memory.writeBytes]
  | cons v vs ih =>
    rw [Memory.writeBytes, ih (Memory.write_wf hm k v), Memory.read_write hm]
    by_cases h : k + 1 ≤ a ∧ a < k + 1 + vs.length
    · have h' : k ≤ a ∧ a < k + (v :: vs).length := by simp; omega
      rw [dif_pos h, dif_pos h']
      have : a - k = (a - (k + 1)) + 1 := by omega
      simp [this]
    · rw [dif_neg h]
      by_cases ha : a = k
      · subst ha; simp
      · rw [dif_neg (by simp; omega), if_neg ha]

/-- The memory at reset is in canonical form. -/
theorem Memory.reset_wf : Memory.wf State.reset.pool.blocks := by decide

/-- Two memories in canonical form that read alike everywhere are the same list. -/
theorem Memory.wf_read (m : List Host.Cell) (hm : Memory.wf m) (c : Host.Cell) (hc : c ∈ m) :
    Memory.read m c.1 = c.2 := by
  induction m with
  | nil => simp at hc
  | cons d m ih =>
    obtain ⟨hp, hb⟩ := hm
    rw [List.pairwise_cons] at hp
    rcases List.mem_cons.1 hc with rfl | hc
    · simp [Memory.read]
    · have := hp.1 c hc
      simp [Memory.read, Nat.ne_of_lt this, ih ⟨hp.2, fun e he => hb e (by simp [he])⟩ hc]

end Sys2Proof.Machine
end

