-- ==== Sys2Proof/Laws/Period.lean ====
section
/-! SUPPORT. What one reference clock period can do, part by part: the samples of a receive line, the receiver, the
tick, the transmitter, and the host bus. -/

namespace Sys2Proof.Machine

/-! ### Samples (R2) -/

@[simp] theorem sampleLine_waitMark (v : Level) :
    sampleLine v .waitMark = (if v = .high then .waitStart else .waitMark, none) := rfl
@[simp] theorem sampleLine_waitStart (v : Level) :
    sampleLine v .waitStart = (if v = .high then .waitStart else .character 0 0, none) := rfl
@[simp] theorem sampleLine_character (v : Level) (n : Nat) (data : Byte) :
    sampleLine v (.character n data) = sampleCharacter v (n + 1) data := rfl

/-- A sample ends in something only at the middle of a stop bit: in a character at mark, and in an error at space. -/
theorem sampleLine_eq_some {v : Level} {x y : Sampler} {e : LineEvent} (h : sampleLine v x = (y, some e)) :
    ∃ data, x = .character 151 data ∧
      ((v = .high ∧ y = .waitStart ∧ e = .character data) ∨ (v = .low ∧ y = .waitMark ∧ e = .error)) := by
  cases x with
  | waitMark => simp at h
  | waitStart => simp at h
  | character n data =>
    simp only [sampleLine_character, sampleCharacter] at h
    split at h
    · simp at h
    · split at h
      · rename_i hn
        have : n = 151 := Nat.succ.inj hn
        subst this
        cases v <;> simp_all
      · split at h <;> simp at h

/-! ### The receiver -/

@[simp] theorem setReceiver_eq (L : Link) (r : ReceiverState) (buf : List Byte) (s : State) :
    setReceiver L r buf s = s.setPort L { s.port L with receiver := r, rxBuffer := buf } := rfl
@[simp] theorem restartGap_eq (L : Link) (n : Nat) (s : State) :
    restartGap L n s = s.setPort L { s.port L with idleLeft := n } := rfl

/-- What a receiver never changes in its port: the link state and settings, and the transmitter's half. -/
structure SameOutside (p q : LinkPort) : Prop where
  state : q.state = p.state
  stationAddress : q.stationAddress = p.stationAddress
  acceptBroadcast : q.acceptBroadcast = p.acceptBroadcast
  lineRate : q.lineRate = p.lineRate
  transmitter : q.transmitter = p.transmitter
  txPeriods : q.txPeriods = p.txPeriods
  txBuffer : q.txBuffer = p.txBuffer
  controlQueue : q.controlQueue = p.controlQueue
  lossIndicator : q.lossIndicator = p.lossIndicator

/-- The state `t` is `s` but for what the receiver of link `L` may change. -/
def ReceiverOnly (L : Link) (s t : State) : Prop := ∃ q, t = s.setPort L q ∧ SameOutside (s.port L) q

theorem SameOutside.refl (p : LinkPort) : SameOutside p p := ⟨rfl, rfl, rfl, rfl, rfl, rfl, rfl, rfl, rfl⟩

theorem ReceiverOnly.refl (L : Link) (s : State) : ReceiverOnly L s s := ⟨s.port L, by simp, .refl _⟩

theorem ReceiverOnly.trans {L : Link} {s t u : State} (h : ReceiverOnly L s t) (k : ReceiverOnly L t u) :
    ReceiverOnly L s u := by
  obtain ⟨p, rfl, a⟩ := h
  obtain ⟨q, rfl, b⟩ := k
  simp only [State.setPort_port_self] at b
  exact ⟨q, by simp, b.state.trans a.state, b.stationAddress.trans a.stationAddress,
    b.acceptBroadcast.trans a.acceptBroadcast, b.lineRate.trans a.lineRate, b.transmitter.trans a.transmitter,
    b.txPeriods.trans a.txPeriods, b.txBuffer.trans a.txBuffer, b.controlQueue.trans a.controlQueue,
    b.lossIndicator.trans a.lossIndicator⟩

theorem receiverOnly_setPort {L : Link} {s : State} {q : LinkPort} (h : SameOutside (s.port L) q) :
    ReceiverOnly L s (s.setPort L q) := ⟨q, rfl, h⟩

theorem discardToSettling_receiverOnly (L : Link) (s : State) : ReceiverOnly L s (discardToSettling L s) := by
  simp only [discardToSettling, count_eq, setReceiver_eq, restartGap_eq, State.setPort_setPort,
    State.setPort_port_self]
  exact receiverOnly_setPort ⟨rfl, rfl, rfl, rfl, rfl, rfl, rfl, rfl, rfl⟩

theorem discardOversized_receiverOnly (L : Link) (s : State) : ReceiverOnly L s (discardOversized L s) := by
  unfold discardOversized
  split
  · exact discardToSettling_receiverOnly L s
  · exact .refl L s

theorem completeFrame_receiverOnly (L : Link) (s : State) : ReceiverOnly L s (completeFrame L s) := by
  unfold completeFrame
  split <;>
    (try simp only [count_eq, setReceiver_eq, State.setPort_setPort, State.setPort_port_self]) <;>
    exact receiverOnly_setPort ⟨rfl, rfl, rfl, rfl, rfl, rfl, rfl, rfl, rfl⟩

theorem hearCharacter_receiverOnly (L : Link) (b : Byte) (s : State) : ReceiverOnly L s (hearCharacter L b s) := by
  unfold hearCharacter
  split <;> (try split) <;> first
    | exact .refl L s
    | (simp only [setReceiver_eq, restartGap_eq, State.setPort_setPort, State.setPort_port_self]
       exact receiverOnly_setPort ⟨rfl, rfl, rfl, rfl, rfl, rfl, rfl, rfl, rfl⟩)

theorem hearError_receiverOnly (L : Link) (s : State) : ReceiverOnly L s (hearError L s) := by
  unfold hearError
  split
  · exact discardToSettling_receiverOnly L s
  · exact receiverOnly_setPort ⟨rfl, rfl, rfl, rfl, rfl, rfl, rfl, rfl, rfl⟩
  all_goals exact .refl L s

theorem endSettling_receiverOnly (L : Link) (s : State) : ReceiverOnly L s (endSettling L s) := by
  unfold endSettling
  split
  · exact receiverOnly_setPort ⟨rfl, rfl, rfl, rfl, rfl, rfl, rfl, rfl, rfl⟩
  · exact .refl L s

theorem truncateFrame_receiverOnly (L : Link) (s : State) : ReceiverOnly L s (truncateFrame L s) := by
  unfold truncateFrame
  split
  · simp only [discardToHunt, count_eq, setReceiver_eq, State.setPort_setPort, State.setPort_port_self]
    exact receiverOnly_setPort ⟨rfl, rfl, rfl, rfl, rfl, rfl, rfl, rfl, rfl⟩
  · exact .refl L s

theorem restartGap_receiverOnly (L : Link) (n : Nat) (s : State) : ReceiverOnly L s (restartGap L n s) :=
  receiverOnly_setPort ⟨rfl, rfl, rfl, rfl, rfl, rfl, rfl, rfl, rfl⟩

theorem countIdle_receiverOnly (L : Link) (s : State) : ReceiverOnly L s (countIdle L s) := by
  unfold countIdle
  split
  · exact (restartGap_receiverOnly L 0 s).trans ((endSettling_receiverOnly L _).trans (truncateFrame_receiverOnly L _))
  · exact restartGap_receiverOnly L _ s

/-! ### What a reference period of a link leaves -/

/-- What a reference period of a link leaves: the queue, the time base, the compose unit, the arbiter, the host port and
the pins. -/
structure LinkFrame (s t : State) : Prop where
  pending : t.pending = s.pending
  time : t.time = s.time
  compose : t.compose = s.compose
  arbiter : t.arbiter = s.arbiter
  host : t.host = s.host
  inputs : t.inputs = s.inputs

theorem LinkFrame.refl (s : State) : LinkFrame s s := ⟨rfl, rfl, rfl, rfl, rfl, rfl⟩

theorem LinkFrame.trans {s t u : State} (h : LinkFrame s t) (k : LinkFrame t u) : LinkFrame s u :=
  ⟨k.pending.trans h.pending, k.time.trans h.time, k.compose.trans h.compose, k.arbiter.trans h.arbiter,
    k.host.trans h.host, k.inputs.trans h.inputs⟩

theorem ReceiverOnly.linkFrame {L : Link} {s t : State} (h : ReceiverOnly L s t) : LinkFrame s t := by
  obtain ⟨q, rfl, -⟩ := h
  exact ⟨rfl, rfl, rfl, rfl, rfl, rfl⟩

theorem recordNotice_linkFrame (n : Notice) (s : State) : LinkFrame s (recordNotice n s) := by
  rw [recordNotice_eq]; exact ⟨rfl, rfl, rfl, rfl, rfl, rfl⟩

theorem abandonContext_linkFrame (e : EntryNo) (s : State) : LinkFrame s (abandonContext e s) := by
  unfold abandonContext; split <;> exact ⟨rfl, rfl, rfl, rfl, rfl, rfl⟩

theorem abandonContexts_linkFrame (es : List EntryNo) (s : State) : LinkFrame s (abandonContexts es s) := by
  induction es generalizing s with
  | nil => exact .refl s
  | cons e es ih => exact (abandonContext_linkFrame e s).trans (ih _)

theorem endOutbound_linkFrame (L : Link) (d : DescNo) (s : State) : LinkFrame s (endOutbound L d s) := by
  rw [endOutbound_eq]; exact ⟨rfl, rfl, rfl, rfl, rfl, rfl⟩

theorem finishDone_linkFrame (L : Link) (d : DescNo) (s : State) : LinkFrame s (finishDone L d s) := by
  unfold finishDone
  first
    | (split <;> first
        | exact (endOutbound_linkFrame L d s).trans (recordNotice_linkFrame _ _)
        | exact (recordNotice_linkFrame _ _).trans (endOutbound_linkFrame L d _)
        | exact endOutbound_linkFrame L d s)

theorem finishFailed_linkFrame (L : Link) (d : DescNo) (r : FailReason) (s : State) :
    LinkFrame s (finishFailed L d r s) := by
  unfold finishFailed
  first
    | exact (endOutbound_linkFrame L d s).trans (recordNotice_linkFrame _ _)
    | exact (recordNotice_linkFrame _ _).trans (endOutbound_linkFrame L d _)

theorem reportFrameEnd_linkFrame (L : Link) (s : State) : LinkFrame s (reportFrameEnd L s) := by
  have clear (t : State) : LinkFrame t (clearLine L t) := ⟨rfl, rfl, rfl, rfl, rfl, rfl⟩
  unfold reportFrameEnd
  split
  · refine .trans ?_ (clear _)
    split
    · unfold fragmentSent
      split
      · exact ⟨rfl, rfl, rfl, rfl, rfl, rfl⟩
      · split
        · exact finishDone_linkFrame ..
        · exact ⟨rfl, rfl, rfl, rfl, rfl, rfl⟩
    · exact .refl s
  · exact clear s

theorem stopSending_linkFrame (L : Link) (s : State) : LinkFrame s (stopSending L s) := by
  unfold stopSending
  split
  · split
    · exact ⟨rfl, rfl, rfl, rfl, rfl, rfl⟩
    · exact finishFailed_linkFrame ..
  · exact .refl s

theorem enterOff_linkFrame (L : Link) (s : State) : LinkFrame s (enterOff L s) := by
  have port (q : LinkPort) (t : State) : LinkFrame t (t.setPort L q) := ⟨rfl, rfl, rfl, rfl, rfl, rfl⟩
  have suspend (t : State) : LinkFrame t (suspendDeadlines L t) := ⟨rfl, rfl, rfl, rfl, rfl, rfl⟩
  exact (abandonContexts_linkFrame _ s).trans ((port _ _).trans ((stopSending_linkFrame L _).trans
    ((suspend _).trans (recordNotice_linkFrame _ _))))

/-- A frame end leaves the queue, the time base, the compose unit, the arbiter, the host port and the pins. -/
theorem endFrame_linkFrame (L : Link) (s : State) : LinkFrame s (endFrame L s) := by
  have gap : LinkFrame s (enterGap L s) := ⟨rfl, rfl, rfl, rfl, rfl, rfl⟩
  simp only [endFrame]
  split
  · exact (gap.trans (reportFrameEnd_linkFrame L _)).trans (enterOff_linkFrame L _)
  · exact gap.trans (reportFrameEnd_linkFrame L _)

theorem takeFrameStart_linkFrame (L : Link) (s : State) : LinkFrame s (takeFrameStart L s) := by
  have offer (o : Offer) : LinkFrame s (takeOffer L o s) := by cases o <;> exact ⟨rfl, rfl, rfl, rfl, rfl, rfl⟩
  have begins (f : Frame) (t : State) : LinkFrame t (beginFrame L f t) := ⟨rfl, rfl, rfl, rfl, rfl, rfl⟩
  unfold takeFrameStart startFrame
  split
  · split
    · exact ⟨rfl, rfl, rfl, rfl, rfl, rfl⟩
    · split
      · exact (offer _).trans (begins _ _)
      · exact .refl s
  · exact .refl s

theorem transmitterPeriod_linkFrame (L : Link) (s : State) : LinkFrame s (transmitterPeriod L s) := by
  unfold transmitterPeriod
  split
  · unfold sendPeriod
    split
    · exact ⟨rfl, rfl, rfl, rfl, rfl, rfl⟩
    · exact endFrame_linkFrame L s
  · exact ⟨rfl, rfl, rfl, rfl, rfl, rfl⟩
  · exact takeFrameStart_linkFrame L s

/-! ### The hand-off (R13) -/

/-- What the taking of a frame that link `L` has handed over leaves: what a reference period of a link leaves, and every
port but for the counters, the control queue, the loss indicator and the handed-over frame of link `L`. -/
structure HandOff (L : Link) (s t : State) : Prop where
  frame : LinkFrame s t
  ports : ∃ handed counters queue loss, t.ports = s.ports.put L { s.port L with
    handedOver := handed, counters := counters, controlQueue := queue, lossIndicator := loss }

theorem HandOff.of_ports {L : Link} {s t : State} (h : LinkFrame s t) (hp : t.ports = s.ports) : HandOff L s t :=
  ⟨h, (s.port L).handedOver, (s.port L).counters, (s.port L).controlQueue, (s.port L).lossIndicator, by
    rw [hp]; exact (Table.put_look ..).symm⟩

theorem HandOff.refl (L : Link) (s : State) : HandOff L s s := .of_ports (.refl s) rfl

theorem HandOff.trans {L : Link} {s t u : State} (h : HandOff L s t) (k : HandOff L t u) : HandOff L s u := by
  obtain ⟨f, h₁, h₂, h₃, h₄, hp⟩ := h
  obtain ⟨g, k₁, k₂, k₃, k₄, kp⟩ := k
  refine ⟨f.trans g, k₁, k₂, k₃, k₄, ?_⟩
  rw [kp, State.port, hp]
  simp

theorem count_handOff (L : Link) (c : CounterName) (s : State) : HandOff L s (count L c s) :=
  ⟨⟨rfl, rfl, rfl, rfl, rfl, rfl⟩, _, _, _, _, rfl⟩

theorem setLoss_handOff (L : Link) (s : State) : HandOff L s (setLoss L s) :=
  ⟨⟨rfl, rfl, rfl, rfl, rfl, rfl⟩, _, _, _, _, rfl⟩

theorem joinRequest_handOff (L : Link) (r : Request) (s : State) : HandOff L s (joinRequest L r s) := by
  rw [joinRequest_eq]
  split <;> exact ⟨⟨rfl, rfl, rfl, rfl, rfl, rfl⟩, _, _, _, _, rfl⟩

theorem answerFragment_handOff (L : Link) (f : Fragment) (k : RequestKind) (s : State) :
    HandOff L s (answerFragment L f k s) := by
  unfold answerFragment
  split
  · exact joinRequest_handOff L _ s
  · exact .refl L s

theorem dropNoContext_handOff (L : Link) (f : Fragment) (s : State) : HandOff L s (dropNoContext L f s) :=
  (count_handOff L _ s).trans ((setLoss_handOff L _).trans (answerFragment_handOff L f _ _))

theorem dropNoBlock_handOff (L : Link) (f : Fragment) (s : State) : HandOff L s (dropNoBlock L f s) :=
  (count_handOff L _ s).trans ((setLoss_handOff L _).trans (answerFragment_handOff L f _ _))

theorem setDesc_handOff (L : Link) (d : DescNo) (x : Descriptor) (s : State) : HandOff L s (s.setDesc d x) :=
  .of_ports ⟨rfl, rfl, rfl, rfl, rfl, rfl⟩ rfl

theorem setContext_handOff (L : Link) (e : EntryNo) (c : Option Context) (s : State) : HandOff L s (s.setContext e c) :=
  .of_ports ⟨rfl, rfl, rfl, rfl, rfl, rfl⟩ rfl

theorem completeContext_handOff {L : Link} {c : Context} (h : c.link = L) (e : EntryNo) (s : State) :
    HandOff L s (completeContext e c s) := by
  subst h
  have ready (q : List DescNo) (t : State) : HandOff c.link t (t.setReady c.link q) :=
    .of_ports ⟨rfl, rfl, rfl, rfl, rfl, rfl⟩ rfl
  have history (h : List Key) (t : State) : HandOff c.link t (t.setHistory c.link h) :=
    .of_ports ⟨rfl, rfl, rfl, rfl, rfl, rfl⟩ rfl
  have whole (x : Descriptor) (q : List DescNo) (h : List Key) : HandOff c.link s
      ((((s.setDesc c.descriptor x).setReady c.link q).setContext e none).setHistory c.link h) :=
    ((setDesc_handOff ..).trans (ready ..)).trans ((setContext_handOff ..).trans (history ..))
  simp only [completeContext]
  split
  · exact whole ..
  · exact (whole ..).trans (joinRequest_handOff ..)

theorem storeFragment_handOff {L : Link} {c : Context} (h : c.link = L) (e : EntryNo) (f : Fragment)
    (b : Option BlockNo) (s : State) : HandOff L s (storeFragment e c f b s) := by
  have stored (t : State) : HandOff L t (match b with | some b => storePayload b f.payload t | none => t) := by
    cases b <;> exact .of_ports ⟨rfl, rfl, rfl, rfl, rfl, rfl⟩ rfl
  simp only [storeFragment]
  split
  · exact (stored s).trans ((setContext_handOff ..).trans (completeContext_handOff (c := contextWith c f b) h e _))
  · exact (stored s).trans (setContext_handOff ..)

theorem reassemblyClaim_handOff {L M : Link} {s t : State} {b : BlockNo} (h : reassemblyClaim L s = some (b, t)) :
    HandOff M s t := by
  obtain ⟨_, _, rfl⟩ := grantBlock_eq_some.1 (reassemblyClaim_eq_some.1 h).2.2
  exact .of_ports ⟨rfl, rfl, rfl, rfl, rfl, rfl⟩ rfl

theorem createContext_handOff (L : Link) (f : Fragment) (s : State) : HandOff L s (createContext L f s) := by
  unfold createContext
  split
  · exact dropNoContext_handOff L f s
  · split
    · split
      · exact dropNoContext_handOff L f s
      · rename_i d _ h
        obtain ⟨-, rfl⟩ := claimDescriptor_eq_some.1 h
        refine (setDesc_handOff L d (assemblingRecord L f) s).trans ?_
        split
        · exact storeFragment_handOff (c := newContext L f _ _) rfl ..
        · split
          · exact .trans (t := freeDescriptor _ _) (setDesc_handOff ..) (dropNoBlock_handOff L f _)
          · rename_i h
            exact (reassemblyClaim_handOff h).trans (storeFragment_handOff (c := newContext L f _ _) rfl ..)
    · exact dropNoContext_handOff L f s

theorem continueContext_handOff {L : Link} {e : EntryNo} {c : Context} (h : c.link = L) (f : Fragment) (s : State) :
    HandOff L s (continueContext L e c f s) := by
  subst h
  unfold continueContext
  split
  · exact count_handOff ..
  · split
    · exact .of_ports ((abandonContext_linkFrame e s).trans (recordNotice_linkFrame _ _)) (by
        rw [abandonMalformed, recordNotice_eq]; unfold abandonContext; split <;> rfl)
    · split
      · exact storeFragment_handOff rfl ..
      · split
        · exact dropNoBlock_handOff ..
        · rename_i h
          exact (reassemblyClaim_handOff h).trans (storeFragment_handOff rfl ..)

theorem takeFragment_handOff (L : Link) (f : Fragment) (s : State) : HandOff L s (takeFragment L f s) := by
  unfold takeFragment
  split
  · exact (count_handOff L _ s).trans (answerFragment_handOff L f _ _)
  · split
    · exact createContext_handOff L f s
    · rename_i he
      split
      · rename_i hc
        obtain ⟨c', hc', hl, -⟩ := findContext_eq_some he
        exact continueContext_handOff (by simp_all) f s
      · exact .refl L s

theorem finishFailed_handOff (L M : Link) (d : DescNo) (r : FailReason) (s : State) :
    HandOff L s (finishFailed M d r s) :=
  .of_ports (finishFailed_linkFrame ..) (by rw [finishFailed, endOutbound_eq, recordNotice_eq]; rfl)

theorem clearHandedOver_handOff (L : Link) (s : State) : HandOff L s (clearHandedOver L s) :=
  ⟨⟨rfl, rfl, rfl, rfl, rfl, rfl⟩, _, _, _, _, rfl⟩

theorem takeHandedFragment_handOff (L : Link) (s : State) : HandOff L s (takeHandedFragment L s) := by
  unfold takeHandedFragment
  split
  · split
    · exact (clearHandedOver_handOff L s).trans (takeFragment_handOff ..)
    · exact .refl L s
  · exact .refl L s

theorem takeHandedAck_handOff (L : Link) (s : State) : HandOff L s (takeHandedAck L s) := by
  unfold takeHandedAck
  split
  · refine (clearHandedOver_handOff L s).trans ?_
    unfold takeAck
    split
    · exact .of_ports (finishDone_linkFrame ..) (by
        unfold finishDone; split <;> (rw [endOutbound_eq]; try rw [recordNotice_eq]) <;> rfl)
    · exact count_handOff ..
  · exact .refl L s

theorem takeHandedRefuse_handOff (L : Link) (s : State) : HandOff L s (takeHandedRefuse L s) := by
  unfold takeHandedRefuse
  split
  · refine (clearHandedOver_handOff L s).trans ?_
    unfold takeRefuse
    split
    · split
      · split
        · exact .of_ports ⟨rfl, rfl, rfl, rfl, rfl, rfl⟩ rfl
        · exact finishFailed_handOff ..
      · exact count_handOff ..
    · exact count_handOff ..
  · exact .refl L s

/-- The taking of a handed-over frame changes no more of the ports than its own port's counters, control queue, loss
indicator and handed-over frame. -/
theorem takeHandedOver_handOff (L : Link) (s : State) : HandOff L s (takeHandedOver L s) :=
  (takeHandedFragment_handOff L s).trans ((takeHandedAck_handOff L _).trans (takeHandedRefuse_handOff L _))

/-- With nothing handed over, nothing is taken. -/
theorem takeHandedOver_of_none {L : Link} {s : State} (h : (s.port L).handedOver = none) : takeHandedOver L s = s := by
  simp [takeHandedOver, takeHandedFragment, takeHandedAck, takeHandedRefuse, h]

theorem handOffPeriod_of_none {L : Link} {s : State} (h : (s.port L).handedOver = none) : handOffPeriod L s = s := by
  simp [handOffPeriod, h]

theorem handOffPeriod_linkFrame (L : Link) (s : State) : LinkFrame s (handOffPeriod L s) := by
  unfold handOffPeriod
  split
  · exact .refl s
  · split
    · exact ⟨rfl, rfl, rfl, rfl, rfl, rfl⟩
    · exact (takeHandedOver_handOff L s).frame

/-! ### A reference period of a receiver -/

/-- A frame that is not complete is not finished. -/
theorem finishFrame_of_not {L : Link} {s : State} (h : s.receiving L .complete = false) : finishFrame L s = s := by
  simp [finishFrame, h]

theorem concludeFrame_of_not {L : Link} {s : State} (h : s.receiving L .complete = false)
    (h' : s.receiving L .oversized = false) : concludeFrame L s = s := by
  simp [concludeFrame, finishFrame_of_not h, discardOversized, h']

theorem concludeFrame_linkFrame (L : Link) (s : State) : LinkFrame s (concludeFrame L s) := by
  refine .trans (t := finishFrame L s) ?_ (discardOversized_receiverOnly L _).linkFrame
  unfold finishFrame
  split
  · exact (takeHandedOver_handOff L s).frame.trans (completeFrame_receiverOnly L _).linkFrame
  · exact .refl s

theorem receiverPeriod_linkFrame (L : Link) (s : State) : LinkFrame s (receiverPeriod L s) := by
  unfold receiverPeriod
  split
  · exact ⟨rfl, rfl, rfl, rfl, rfl, rfl⟩
  · simp only [sampleReceiver]
    refine .trans ?_ (concludeFrame_linkFrame L _)
    refine .trans (t := s.setPort L { s.port L with
      sampleCount := 0, sampler := (sampleLine (s.inputs.pins.rxd.look L) (s.port L).sampler).1 })
      ⟨rfl, rfl, rfl, rfl, rfl, rfl⟩ ?_
    split
    · exact (countIdle_receiverOnly L _).linkFrame
    · unfold takeLineEvent
      split
      · exact (concludeFrame_linkFrame L _).trans (hearCharacter_receiverOnly L _ _).linkFrame
      · exact (concludeFrame_linkFrame L _).trans (hearError_receiverOnly L _).linkFrame
      · exact .refl _

/-- A reference period of a disabled receiver moves its sampling alone. -/
theorem receiverPeriod_of_disabled {L : Link} {s : State} (h : (s.port L).receiver = .disabled) :
    ∃ n x, receiverPeriod L s = s.setPort L { s.port L with sampleCount := n, sampler := x } := by
  unfold receiverPeriod
  split
  · exact ⟨_, (s.port L).sampler, rfl⟩
  · have still (u : State) (e : Option LineEvent) (hx : (u.port L).receiver = .disabled) :
        concludeFrame L (takeLineEvent L u e) = u := by
      have conclude : concludeFrame L u = u :=
        concludeFrame_of_not (by simp [State.receiving, hx]) (by simp [State.receiving, hx])
      have line : takeLineEvent L u e = u := by
        unfold takeLineEvent receiveCharacter receiveError
        split <;> simp only [conclude] <;> simp [hearCharacter, hearError, hx]
      rw [line, conclude]
    refine ⟨0, (sampleLine (s.inputs.pins.rxd.look L) (s.port L).sampler).1, ?_⟩
    simp only [sampleReceiver]
    rw [if_neg (by simp [State.measuring, State.receiving, h]), still _ _ (by simpa using h)]

/-- A reference period of the links leaves the queue, the time base, the compose unit, the arbiter, the host port and the
pins. -/
theorem linkPeriods_linkFrame (s : State) : LinkFrame s (linkPeriods s) := by
  have one (L : Link) (t : State) : LinkFrame t (linkPeriod L t) :=
    (transmitterPeriod_linkFrame L t).trans ((handOffPeriod_linkFrame L _).trans (receiverPeriod_linkFrame L _))
  exact (one 0 s).trans ((one 1 _).trans ((one 2 _).trans (one 3 _)))

/-! ### The tick (R23, R28) -/

/-- What an expiry does: nothing when it is not due, and otherwise the owner's event. -/
theorem lifetimeExpiry_eq (e : EntryNo) (s : State) :
    lifetimeExpiry e s = s ∨ ∃ c, s.context e = some c ∧ c.deadline = s.now ∧ lifetimeExpiry e s = expireContext e c s := by
  unfold lifetimeExpiry State.contextDue
  cases h : s.context e with
  | none => exact .inl rfl
  | some c => by_cases hd : c.deadline = s.now <;> simp [hd]

theorem ackWaitExpiry_eq (d : DescNo) (s : State) :
    ackWaitExpiry d s = s ∨
      (s.desc d).state = .awaitAck ∧ (s.desc d).deadline = some (.armed s.now) ∧ ackWaitExpiry d s = expireWait d s := by
  unfold ackWaitExpiry State.waitDue
  split
  · next h => exact .inr ⟨by simp_all, by simp_all, rfl⟩
  · exact .inl rfl

theorem backoffExpiry_eq (d : DescNo) (s : State) :
    backoffExpiry d s = s ∨
      (s.desc d).state = .backoff ∧ (s.desc d).deadline = some (.armed s.now) ∧
        backoffExpiry d s = enterResend (s.desc d).link d s := by
  unfold backoffExpiry State.waitDue
  split
  · next h => exact .inr ⟨by simp_all, by simp_all, rfl⟩
  · exact .inl rfl

/-- What holds of a state and is kept by every single expiry holds after all that are due. -/
theorem takeExpiries_induction {P : State → Prop} {s : State} (h : P s)
    (lifetime : ∀ e t, P t → P (lifetimeExpiry e t)) (ackWait : ∀ d t, P t → P (ackWaitExpiry d t))
    (backoff : ∀ d t, P t → P (backoffExpiry d t)) : P (takeExpiries s) := by
  have all {n : Nat} (f : State → Fin n → State) (keep : ∀ i t, P t → P (f t i)) (l : List (Fin n)) :
      ∀ t, P t → P (l.foldl f t) := by
    induction l with
    | nil => exact fun _ h => h
    | cons i l ih => exact fun t h => ih _ (keep i t h)
  exact all _ (fun d t h => backoff d _ (ackWait d t h)) _ _ (all _ lifetime _ s h)

theorem lifetimeExpiry_linkFrame (e : EntryNo) (s : State) : LinkFrame s (lifetimeExpiry e s) := by
  obtain h | ⟨c, -, -, h⟩ := lifetimeExpiry_eq e s <;> rw [h]
  · exact .refl s
  · exact (abandonContext_linkFrame e s).trans (recordNotice_linkFrame _ _)

theorem ackWaitExpiry_linkFrame (d : DescNo) (s : State) : LinkFrame s (ackWaitExpiry d s) := by
  obtain h | ⟨-, -, h⟩ := ackWaitExpiry_eq d s <;> rw [h]
  · exact .refl s
  · simp only [expireWait]
    split
    · exact ⟨rfl, rfl, rfl, rfl, rfl, rfl⟩
    · exact finishFailed_linkFrame ..

theorem backoffExpiry_linkFrame (d : DescNo) (s : State) : LinkFrame s (backoffExpiry d s) := by
  obtain h | ⟨-, -, h⟩ := backoffExpiry_eq d s <;> rw [h]
  · exact .refl s
  · exact ⟨rfl, rfl, rfl, rfl, rfl, rfl⟩

/-- The expiries leave the queue, the time base, the compose unit, the arbiter, the host port and the pins. -/
theorem takeExpiries_linkFrame (s : State) : LinkFrame s (takeExpiries s) :=
  takeExpiries_induction (P := LinkFrame s) (.refl s) (fun e t h => h.trans (lifetimeExpiry_linkFrame e t))
    (fun d t h => h.trans (ackWaitExpiry_linkFrame d t)) fun d t h => h.trans (backoffExpiry_linkFrame d t)

/-- A tick, unless the RESET line is low: the expiries and then one advance of the time base. -/
theorem takeTick_eq {s : State} (h : s.host.resetLow = false) :
    takeTick s = { takeExpiries s with time := advanceTick s.time } := by
  simp [takeTick, h, (takeExpiries_linkFrame s).time]

theorem takeTick_low {s : State} (h : s.host.resetLow = true) : takeTick s = s := by simp [takeTick, h]

theorem takeTick_host (s : State) : (takeTick s).host = s.host := by
  cases h : s.host.resetLow with
  | true => rw [takeTick_low h]
  | false => rw [takeTick_eq h]; dsimp only; rw [(takeExpiries_linkFrame s).host]

/-! ### Links in OFF -/

/-- A transmitter outside RUN with no frame on its line changes its own gap alone. -/
theorem transmitterPeriod_of_not_active {L : Link} {s : State} (h : (s.port L).transmitter ≠ .active)
    (hr : (s.port L).state ≠ .run) :
    ∃ x n, transmitterPeriod L s = s.setPort L { s.port L with transmitter := x, txPeriods := n } ∧ x ≠ .active := by
  unfold transmitterPeriod
  split
  · contradiction
  · unfold measureGap
    split
    · exact ⟨(s.port L).transmitter, _, rfl, h⟩
    · exact ⟨_, _, rfl, by simp⟩
  · exact ⟨(s.port L).transmitter, (s.port L).txPeriods, by
      rw [takeFrameStart, if_neg fun k => hr k.1]; exact (State.setPort_port_eq ..).symm, h⟩

/-- A reference period of a link in OFF changes the port of the link alone. -/
theorem linkPeriod_of_off {L : Link} {s : State} (h : (s.port L).transmitter ≠ .active)
    (hr : (s.port L).state ≠ .run) (hx : (s.port L).receiver = .disabled) (hh : (s.port L).handedOver = none) :
    ∃ x n m y, linkPeriod L s = s.setPort L { s.port L with
      transmitter := x, txPeriods := n, sampleCount := m, sampler := y } ∧ x ≠ .active := by
  obtain ⟨x, n, ht, ha⟩ := transmitterPeriod_of_not_active h hr
  obtain ⟨m, y, hs⟩ := receiverPeriod_of_disabled (L := L) (s := transmitterPeriod L s) (by simp [ht, hx])
  refine ⟨x, n, m, y, ?_, ha⟩
  rw [linkPeriod, handOffPeriod_of_none (by simp [ht, hh]), hs, ht]
  simp

/-! ### Samples that a receiver measuring an idle gap takes (R2, R7, R9) -/

/-- The receiver measures an idle gap: it settles, or the frame being received is incomplete. -/
def Measures (p : LinkPort) : Prop :=
  p.receiver = .settling ∨ (p.receiver = .frame ∧ rxProgress p.rxBuffer = .unfinished)

/-- A sample that ends in nothing and is no mark of an idle gap moves the sampler alone. -/
theorem sampleReceiver_silent {L : Link} {v : Level} {s : State} (hm : Measures (s.port L))
    (he : (sampleLine v (s.port L).sampler).2 = none)
    (hi : ¬ (v = .high ∧ (sampleLine v (s.port L).sampler).1.unconfirmed = true)) :
    sampleReceiver L v s = s.setPort L { s.port L with
      sampleCount := 0, sampler := (sampleLine v (s.port L).sampler).1 } := by
  have hc (u : State) : ¬ (((none : Option LineEvent).isNone && v == .high &&
      (sampleLine v (s.port L).sampler).1.unconfirmed && u.measuring L) = true) := by
    simp only [Bool.and_eq_true, beq_iff_eq]
    exact fun k => hi ⟨k.1.1.2, k.1.2⟩
  simp only [sampleReceiver, he, takeLineEvent]
  rw [if_neg (hc _)]
  rcases hm with h | ⟨h, h'⟩ <;> simp [concludeFrame, finishFrame, discardOversized, State.receiving, *]

/-- A mark of an idle gap that is not its last one. -/
theorem sampleReceiver_idle {L : Link} {s : State} (hm : Measures (s.port L)) (hx : (s.port L).sampler = .waitStart)
    (hi : 1 < (s.port L).idleLeft) :
    sampleReceiver L .high s = s.setPort L { s.port L with
      sampleCount := 0, idleLeft := (s.port L).idleLeft - 1 } := by
  simp only [sampleReceiver, hx, sampleLine_waitStart, if_true]
  rcases hm with h | ⟨h, h'⟩ <;>
    simp [concludeFrame, finishFrame, discardOversized, State.receiving, State.measuring, Sampler.unconfirmed, countIdle,
      Nat.not_le.2 hi, *]

/-- The last mark of an idle gap ends SETTLING. -/
theorem sampleReceiver_endSettling {L : Link} {s : State} (h : (s.port L).receiver = .settling)
    (hx : (s.port L).sampler = .waitStart) (hi : (s.port L).idleLeft ≤ 1) :
    sampleReceiver L .high s = s.setPort L { s.port L with sampleCount := 0, idleLeft := 0, receiver := .hunt } := by
  simp [sampleReceiver, concludeFrame, finishFrame, discardOversized, State.receiving, State.measuring, Sampler.unconfirmed,
    countIdle, endSettling, truncateFrame, *]

/-- The last mark of an idle gap ends an incomplete frame. -/
theorem sampleReceiver_truncate {L : Link} {s : State} (h : (s.port L).receiver = .frame)
    (hu : rxProgress (s.port L).rxBuffer = .unfinished) (hx : (s.port L).sampler = .waitStart)
    (hi : (s.port L).idleLeft ≤ 1) :
    sampleReceiver L .high s = s.setPort L { s.port L with
      sampleCount := 0, idleLeft := 0, receiver := .hunt, rxBuffer := [],
      counters := (s.port L).counters.bump .formatErrors } := by
  simp [sampleReceiver, concludeFrame, finishFrame, discardOversized, State.receiving, State.measuring, Sampler.unconfirmed,
    countIdle, endSettling, truncateFrame, discardToHunt, count_eq, *]

/-! ### The host bus (R178) -/

/-- The pins after a reference period of the bus. -/
@[simp] theorem busPeriod_inputs (s : State) : (busPeriod s).inputs = s.inputs.advance := rfl

/-- With the pins staying as they are, no access begins or ends: the part drives on in a read that is not ignored, and
drives nothing otherwise. -/
theorem busPeriod_of_next_eq {s : State} (h : s.inputs.next = s.inputs.pins) :
    busPeriod s = { s with
      host := { s.host with
        dataBus := if s.inputs.pins.reads && !ignoresAccess s.inputs s.inputs.pins then s.host.dataBus else none }
      inputs := s.inputs.advance } := by
  have hw : writeEnds s.inputs s.inputs.pins = false := by
    unfold writeEnds Pins.writes
    cases s.inputs.pins.cs <;> cases s.inputs.pins.wr <;> rfl
  have hr : readBegins s.inputs s.inputs.pins = false := by simp [readBegins]
  by_cases hh : readHeld s.inputs s.inputs.pins = true
  · have : (s.inputs.pins.reads && !ignoresAccess s.inputs s.inputs.pins) = true := by simpa [readHeld] using hh
    simp [busPeriod, h, hw, driveData, hr, hh, this]
  · have : (s.inputs.pins.reads && !ignoresAccess s.inputs s.inputs.pins) = false := by simpa [readHeld] using hh
    simp [busPeriod, h, hw, driveData, hr, hh, this, releaseBus]

/-- The period in which a write is taken and no read begins. -/
theorem busPeriod_of_write {s : State} (hw : writeEnds s.inputs s.inputs.next = true)
    (hr : s.inputs.next.reads = false) :
    busPeriod s =
      { releaseBus (takeWrite s.inputs.next.address s.inputs.next.data s) with inputs := s.inputs.advance } := by
  simp [busPeriod, hw, driveData, readBegins, readHeld, hr]

/-- The period in which a read is taken and no write ends. -/
theorem busPeriod_of_read {s : State} (hw : writeEnds s.inputs s.inputs.next = false)
    (hr : readBegins s.inputs s.inputs.next = true) :
    busPeriod s = { takeRead s.inputs.next.address s with inputs := s.inputs.advance } := by
  simp [busPeriod, hw, driveData, hr]

/-- A period in which no access begins or ends. -/
theorem busPeriod_of_none {s : State} (hw : writeEnds s.inputs s.inputs.next = false)
    (hr : readBegins s.inputs s.inputs.next = false) :
    busPeriod s =
      { (if readHeld s.inputs s.inputs.next then s else releaseBus s) with inputs := s.inputs.advance } := by
  simp [busPeriod, hw, driveData, hr]

/-- The data lines after a whole reference period are what the bus has made them. -/
theorem clockPeriod_dataBus (s : State) : (clockPeriod s).host.dataBus = (busPeriod s).host.dataBus := by
  have place (t : State) : (placeBlock t).host.dataBus = t.host.dataBus := by
    unfold placeBlock finishRebuild; split <;> (try split) <;> rfl
  have count (t : State) : (countPeriod t).host = t.host := by
    unfold countPeriod
    split
    · rfl
    · exact takeTick_host t
  have pulse (t : State) : (agePulsePeriod t).host = t.host := by unfold agePulsePeriod; split <;> rfl
  simp only [clockPeriod]
  split
  · rfl
  · rw [(linkPeriods_linkFrame _).host, place, pulse, count]

end Sys2Proof.Machine
end

