-- ==== Sys2Proof/Tests/Slice0.lean ====
section
/-! SUPPORT. The model's own tests: what is ill formed, one-step tests with the values of the spec's worked examples,
and for every statement with hypotheses a state that meets them together. -/

set_option Elab.async false

namespace Sys2Proof.Tests

open Sys2Proof.Machine Sys2Proof.Safety Sys2Proof.Statement

/-! ### Small states -/

/-- The state after a command. -/
def after (c : Instr) (s : State) : State :=
  match exec c s with
  | .next t => t
  | .fault r => nomatch r
  | .refused _ => s

def onPort (L : Link) (f : LinkPort → LinkPort) (s : State) : State := s.setPort L (f (s.port L))
def onSch (L : Link) (f : Scheduler → Scheduler) (s : State) : State := s.setSch L (f (s.sch L))
def at_ (t : Tick) (s : State) : State := { s with time := { s.time with tickCounter := t } }
def freeing (l : List BlockNo) (s : State) : State := { s with pool := { s.pool with freeList := l } }
def onArbiter (f : Arbiter → Arbiter) (s : State) : State := { s with arbiter := f s.arbiter }
def onHost (f : HostPort → HostPort) (s : State) : State := { s with host := f s.host }
def parameters (p0 p1 p2 : Byte) : State → State := onHost fun h => { h with p0 := p0, p1 := p1, p2 := p2 }
def onCompose (f : Compose → Compose) (s : State) : State := { s with compose := f s.compose }
def noticing (l : List Notice) (s : State) : State := { s with notices := { s.notices with records := l } }

/-- The host selects an address with the levels of RD and WR given, and the byte given on the data lines. -/
def selecting (rd wr : Level) (a : BitVec 7) (v : Byte) : Pins :=
  { Pins.rest with cs := .low, rd := rd, wr := wr, address := a, data := v }

/-- The pins as given, and as they are to be in the next reference period. -/
def pinned (now next : Pins) (s : State) : State := { s with inputs := ⟨now, [next], false⟩ }

/-- The state after a step. -/
def stepped (s : State) : State :=
  match step s with
  | .next t => t
  | .fault r => nomatch r
  | .refused _ => s

/-- Initialisation is over: every block is on the free list. -/
def base : State := finishRebuild State.reset

/-- Link `L` is in RUN with a station address, its receiver hunting and its transmitter IDLE. -/
def running (L : Link) (address : Nat) : State → State :=
  onPort L fun p => { p with state := .run, stationAddress := address, receiver := .hunt, transmitter := .idle }

/-- The receiver of link `L` is in FRAME with the bytes given. -/
def inFrame (L : Link) (bytes : List Byte) : State → State :=
  onPort L fun p => { p with receiver := .frame, rxBuffer := bytes }

def handing (L : Link) (h : HandedFrame) : State → State := onPort L fun p => { p with handedOver := some h }

/-- An inbound message of link 0. -/
def inbound (st : DescState) (age : Nat) (chain : List BlockNo) : Descriptor :=
  { Descriptor.cleared with
    state := st, direction := some .inbound, peer := 40, length := 64 * chain.length, fragmentCount := some 1,
    age := age, chain := chain }

/-- An outbound message of link 1 to station 12, as in section 9.9: reference 5, tag 17, 130 bytes. -/
def outbound (st : DescState) (attempts : Nat) (deadline : Option Deadline) : Descriptor :=
  { Descriptor.cleared with
    state := st, direction := some .outbound, link := 1, peer := 12, tag := some 17, reference := 5, length := 130,
    fragmentCount := some 3, chain := [40, 41, 150], attempts := attempts, deadline := deadline }

/-- Link 1 with that message outstanding (section 9.9). -/
def retrying (st : DescState) (attempts : Nat) (deadline : Option Deadline) (now : Tick) : State :=
  onSch 1 (fun x => { x with outstanding := [9], nextTag := 18 })
    ((at_ now (running 1 9 base)).setDesc 9 (outbound st attempts deadline))

/-- The context of section 5.9 after its third row, in entry 4 with descriptor 7. -/
def outOfOrder : Context where
  link := 0
  origin := 40
  tag := 12
  descriptor := 7
  received := (((Table.fill 16 false).put 0 true).put 2 true).put 3 true
  final := some 3
  slots := (((Table.fill 16 none).put 0 (some 121)).put 2 (some 120)).put 3 (some 122)
  deadline := 5100

def assembling (L : Link) (peer : Byte) (tag : Tag) : Descriptor :=
  { Descriptor.cleared with
    state := .assembling, direction := some .inbound, link := L, peer := peer, tag := some tag }

/-- Section 5.9 with a fragment of the message handed over. -/
def reassembling (now : Tick) (f : Fragment) : State :=
  handing 0 (.data f) (at_ now (running 0 9 (freeing ((List.finRange 512).drop 123)
    { base with pool := { base.pool with usedLength := base.pool.usedLength.put 122 38 } }))
    |>.setDesc 7 (assembling 0 40 12) |>.setContext 4 (some outOfOrder))

def fragmentOf (tag : Tag) (n : FragNo) (final : Bool) (length : Nat) : Fragment :=
  ⟨40, false, tag, n, final, List.replicate length 0x55⟩

/-! ### Well-formedness and decoding -/

/-- A code of the command table is no unknown command. -/
theorem test_wellFormed_unknownCommand :
    (∀ code ∈ commandCodes, (Instr.unknownCommand code).wellFormed = false) ∧
      (Instr.unknownCommand 0x04).wellFormed = true ∧ (Instr.unknownCommand 0xFF).wellFormed = true := by decide

/-- An address with a row of its own is no configuration write. -/
theorem test_wellFormed_configurationWrite :
    (∀ a ∈ ownWriteRows, (Instr.configurationWrite a 0).wellFormed = false) ∧
      (Instr.configurationWrite 0x41 9).wellFormed = true := by decide

/-- No row of the table has bits, so no word spells a command. -/
theorem test_decodeTableWord : decodeTableWord 8 0x10 = none := rfl

/-! ### Frames -/

/-- The note under R6: the check of the nine ASCII bytes 31h to 39h. -/
theorem test_check :
    checkOf [0x31, 0x32, 0x33, 0x34, 0x35, 0x36, 0x37, 0x38, 0x39] = 0x29B1 ∧
      check [0x31, 0x32, 0x33, 0x34, 0x35, 0x36, 0x37, 0x38, 0x39] = 0x29B1 := by decide +kernel

/-- Link 2 of section 1.4.1: address 17, accept broadcast off, with the complete frame given. -/
def listening (f : Frame) : State :=
  onPort 2 (fun p => { p with acceptBroadcast := false }) (inFrame 2 f.bytes (running 2 17 base))

/-- Row 7 of section 1.4.1: a REFUSE with reason 2 is handed over. -/
theorem test_rxFrameComplete_refuse :
    ((after (.rxFrameComplete 2) (listening ⟨0x33, 17, 40, 3, 0, [2]⟩)).port 2).handedOver =
      some (.refuse 40 3 .noBlock) := by decide +kernel

/-- A frame still handed over is taken before the next one completes (R13): the ACK matches no message. -/
theorem test_rxFrameComplete_untaken :
    let p := (after (.rxFrameComplete 2) (handing 2 (.ack 40 5) (listening ⟨0x33, 17, 40, 3, 0, [2]⟩))).port 2
    p.handedOver = some (.refuse 40 3 .noBlock) ∧ p.counters.stray = 1 ∧ p.receiver = .hunt := by decide +kernel

/-- A start byte directly after the check of a frame begins the next one (R8). -/
theorem test_characterReceived_afterCheck :
    let p := (after (.characterReceived 2 0xA6) (listening ⟨0x33, 17, 40, 3, 0, [2]⟩)).port 2
    p.handedOver = some (.refuse 40 3 .noBlock) ∧ p.receiver = .frame ∧ p.rxBuffer = [0xA6] := by decide +kernel

/-- Row 5 of section 1.4.1: a non-final fragment of 20 bytes is a format error. -/
theorem test_rxFrameComplete_short :
    let p := (after (.rxFrameComplete 2) (listening ⟨0x31, 17, 40, 7, 0, List.replicate 20 1⟩)).port 2
    p.handedOver = none ∧ p.counters.formatErrors = 1 ∧ p.counters.checkErrors = 0 ∧ p.receiver = .hunt := by
  decide +kernel

/-- Row 6 of section 1.4.1: a frame declaring 64 bytes ends after twelve. -/
theorem test_truncation :
    let p := (after (.truncation 2)
      (inFrame 2 [0xA6, 0x31, 17, 40, 5, 0, 64, 1, 2, 3, 4, 5] (running 2 17 base))).port 2
    p.receiver = .hunt ∧ p.counters.formatErrors = 1 ∧ p.rxBuffer = [] := by decide +kernel

/-- Row 9 of section 1.4.1: the seventh byte is a payload length of 80. -/
theorem test_oversizedPayloadLength :
    let p := (after (.oversizedPayloadLength 2) (after (.characterReceived 2 80)
      (inFrame 2 [0xA6, 0x31, 17, 40, 5, 0] (running 2 17 base)))).port 2
    p.receiver = .settling ∧ p.counters.formatErrors = 1 := by decide +kernel

/-- A start byte in HUNT begins a frame, and another byte is ignored (R7). -/
theorem test_characterReceived :
    ((after (.characterReceived 0 0xA6) (running 0 9 base)).port 0).receiver = .frame ∧
      ((after (.characterReceived 0 0xA5) (running 0 9 base)).port 0).receiver = .hunt := by decide +kernel

/-- A character error in FRAME counts a format error and settles (R9). -/
theorem test_characterError :
    let p := (after (.characterError 0) (inFrame 0 [0xA6] (running 0 9 base))).port 0
    p.receiver = .settling ∧ p.counters.formatErrors = 1 := by decide +kernel

/-- SETTLING ends in HUNT (R7). -/
theorem test_settlingGapEnd :
    ((after (.settlingGapEnd 0) (onPort 0 (fun p => { p with receiver := .settling }) base)).port 0).receiver =
      .hunt := by decide +kernel

/-! ### Lines and the bus at the pins -/

/-- A6h = 10100110b on the line: start bit, then 0 1 1 0 0 1 0 1, stop bit (R2). -/
theorem test_characterLevels :
    characterLevels 0xA6 =
      [.low, .low, .high, .high, .low, .low, .high, .low, .high, .high] := by decide

/-- The samples of A6h after a sample of mark end in that character (R2). -/
theorem test_sampleLine :
    (heard .waitMark (.high :: sampled (characterLevels 0xA6))) = (.waitStart, [.character 0xA6]) := by decide +kernel

/-- Eight samples at space and a ninth at mark are a false start (R2). -/
theorem test_sampleLine_falseStart :
    heard .waitStart (List.replicate 8 .low ++ [.high]) = (.waitStart, []) := by decide

/-- The idle gap of R2: after the sample in the middle of a stop bit, the 7 samples left of it and twenty bit times of
mark, the last of which ends SETTLING. -/
theorem test_idleGap :
    let s (n : Nat) := onPort 0 (fun p => { p with
      lineRate := 7, receiver := .settling, sampler := .waitStart, idleLeft := n }) base
    ((after (.characterReceived 0 1) (s 5)).port 0).idleLeft = 7 + 20 * 16 ∧
      ((hearing 0 [.high] (s 2)).port 0).receiver = .settling ∧ ((hearing 0 [.high] (s 1)).port 0).receiver = .hunt := by decide +kernel

/-- Link 0 at line rate 7, one sample before the middle of the stop bit of an A6h, with its line at the level given. -/
def endingCharacter (v : Level) : State :=
  let at_ : Pins := { Pins.rest with rxd := Pins.rest.rxd.put 0 v }
  pinned Pins.rest at_
    (onPort 0 (fun p => { p with lineRate := 7, sampler := .character 151 0xA6 }) (running 0 9 base))

/-- A stop bit at mark begins a frame, and one at space is a character error, which HUNT ignores (R2, R7). -/
theorem test_step_character :
    ((stepped (endingCharacter .high)).port 0).rxBuffer = [0xA6] ∧
      ((stepped (endingCharacter .low)).port 0).receiver = .hunt := by decide +kernel

/-- At line rate 7 a bit takes 16 periods: the start bit ends, and A6h follows with its bit 0, which is 0 (R2, R3). -/
theorem test_txd :
    let s := onPort 0 (fun p => { p with lineRate := 7, transmitter := .active, txBuffer := [0xA6] }) base
    s.txd 0 = .low ∧ (onPort 0 (fun p => { p with txPeriods := 32 }) s).txd 0 = .high ∧ base.txd 0 = .high := by
  decide +kernel

/-- At line rate 7 a character time is 160 periods: a handed-over ACK waits for 159 of them and is taken in the next one,
when no message matches it (R13, R155). -/
theorem test_step_handOff :
    let s (n : Nat) := handing 0 (.ack 40 5) (onPort 0 (fun p => { p with lineRate := 7, handedPeriods := n })
      (running 0 9 base))
    ((stepped (s 158)).port 0).handedOver = some (.ack 40 5) ∧ ((stepped (s 158)).port 0).handedPeriods = 159 ∧
      ((stepped (s 159)).port 0).handedOver = none ∧ ((stepped (s 159)).port 0).counters.stray = 1 := by decide +kernel

/-- A request waiting on an IDLE transmitter in RUN starts its frame in the next period (R14, R101). -/
theorem test_step_frameStart :
    let t := stepped (onPort 0 (fun p => { p with controlQueue := [⟨.ack, 40, 5⟩] }) (running 0 9 base))
    (t.port 0).transmitter = .active ∧ (t.port 0).controlQueue = [] ∧ (t.port 0).txPeriods = 0 := by decide +kernel

/-- The last period of the stop bit is frame end (R16). -/
theorem test_step_frameEnd :
    ((stepped (onPort 0 (fun p => { p with
      lineRate := 7, transmitter := .active, txBuffer := [0xA6], txPeriods := 159 }) base)).port 0).transmitter = .gap := by
  decide +kernel

/-- A read of the line rate drives 05h until RD returns high, and an access with all three low drives nothing (R178). -/
theorem test_step_read :
    let s := stepped (pinned Pins.rest (selecting .low .high 0x43 0) base)
    s.host.dataBus = some 5 ∧ (stepped s).host.dataBus = some 5 ∧
      (stepped { s with inputs := { s.inputs with coming := [selecting .high .high 0x43 0] } }).host.dataBus = none ∧
      (stepped (pinned Pins.rest (selecting .low .low 0x43 0) base)).host.dataBus = none := by decide +kernel

/-- A write of P0 is taken when WR returns high, and not while it is low (R178). -/
theorem test_step_write :
    let low := selecting .high .low 0x05 7
    (stepped (pinned Pins.rest low base)).host.p0 = 0 ∧
      (stepped (pinned low (selecting .high .high 0x05 7) base)).host.p0 = 7 := by decide +kernel

/-! ### Time -/

/-- The tick counter wraps, and with age-step 10 and divider 9 a tick produces an age pulse (R25, section 2.4.1). -/
theorem test_tick :
    let t := after .tick { base with time := { base.time with tickCounter := 0xFFFF, divider := 9 } }
    t.now = 0 ∧ t.time.divider = 0 ∧ t.time.agePulses = 1 := by decide +kernel

/-- An interval ends in the period that reaches its length, and an expiry then still due is taken before the counter moves
on (R23, R28). -/
theorem test_tick_with_an_expiry_due :
    let s := retrying .awaitAck 4 (some (.armed 2026)) 2026
    let t := stepped { s with time := { s.time with periodCount := 16383 } }
    t.now = 2027 ∧ t.time.periodCount = 0 ∧ (t.desc 9).state = .free ∧
      t.notices.records = [⟨1, 2026, .txFailed 12 17 5 4 .noAck⟩] := by decide +kernel

/-- Section 2.4.1: a SERVICE message is not aged, READY messages are, and 31 is kept. -/
theorem test_agePulse :
    let s := ((base.setDesc 0 (inbound .service 30 [])).setDesc 1 (inbound .ready 4 [])).setDesc 2 (inbound .ready 31 [])
    let t := after .agePulse { s with time := { s.time with agePulses := 1 } }
    (t.desc 0).age = 30 ∧ (t.desc 1).age = 5 ∧ (t.desc 2).age = 31 ∧ t.time.agePulses = 0 := by decide +kernel

/-- A pulse that no command has taken is taken in the next reference period (R30). -/
theorem test_step_agePulse :
    let s := base.setDesc 1 (inbound .ready 4 [])
    let t := stepped { s with time := { s.time with agePulses := 1 } }
    (t.desc 1).age = 5 ∧ t.time.agePulses = 0 := by decide +kernel

/-- Section 2.5.1: an interval of 100 armed at 65,530 ends at 94. -/
theorem test_deadline_across_wrap : (at_ 65530 base).deadlineAfter 100 = 94 := by decide +kernel

/-- The context of section 3.8: blocks 77, 302 and 306 in the slots of fragments 0, 2 and 3. -/
def contextX : Context :=
  { outOfOrder with slots := (((Table.fill 16 none).put 0 (some 77)).put 2 (some 302)).put 3 (some 306) }

/-- Row 11 of section 3.8: the blocks go back in fragment order. -/
theorem test_contextLifetimeExpiry :
    let t := after (.contextLifetimeExpiry 4) (((at_ 5100 (freeing [308] base)).setDesc 7 (assembling 0 40 12)).setContext 4
      (some contextX))
    t.pool.freeList = [308, 77, 302, 306] ∧ (t.desc 7).state = .free ∧ t.context 4 = none ∧
      t.notices.records = [⟨0, 5100, .rxExpired 40 12 3⟩] := by decide +kernel

/-- Row 9 of section 9.9: with attempts 1 of 4 the message waits to be sent again. -/
theorem test_acknowledgementWaitExpiry :
    let t := after (.acknowledgementWaitExpiry 9) (retrying .awaitAck 1 (some (.armed 2026)) 2026)
    (t.desc 9).state = .resend ∧ (t.desc 9).deadline = none ∧ (t.sch 1).resendOrder = [9] ∧
      t.notices.records = [] := by decide +kernel

/-- The last variation of section 9.9's lost ACKs: at attempts 4 the wait ends the message with reason NO_ACK. -/
theorem test_acknowledgementWaitExpiry_last :
    let t := after (.acknowledgementWaitExpiry 9) (retrying .awaitAck 4 (some (.armed 2026)) 2026)
    (t.desc 9).state = .free ∧ (t.sch 1).outstanding = [] ∧
      t.notices.records = [⟨1, 2026, .txFailed 12 17 5 4 .noAck⟩] := by decide +kernel

/-- A refuse backoff ends in RESEND (R157). -/
theorem test_refuseBackoffExpiry :
    ((after (.refuseBackoffExpiry 9) (retrying .backoff 1 (some (.armed 2026)) 2026)).desc 9).state = .resend := by
  decide +kernel

/-! ### Fragments -/

/-- Row 1 of section 5.9: the lowest FREE entry and descriptor, the head block, and a deadline of 5100. -/
theorem test_fragment_creates :
    let t := after (.fragment 0) (handing 0 (.data (fragmentOf 12 2 false 64))
      (at_ 5000 (running 0 9 (freeing [120, 121, 122, 123] { base with pool := { base.pool with reserve := 0 } }))))
    (t.context 0).map (fun c => (c.descriptor, c.slots.look 2, c.final, c.deadline)) =
        some (0, some 120, none, 5100) ∧
      t.pool.freeList = [121, 122, 123] ∧ t.pool.usedLength.look 120 = 64 ∧ t.blockByte 120 63 = 0x55 ∧
      (t.desc 0).state = .assembling ∧ (t.desc 0).peer = 40 ∧ (t.desc 0).length = 0 := by decide +kernel

/-- Row 4 of section 5.9: length 230, chain in fragment order, ACK request for station 40 and tag 12. -/
theorem test_fragment_completes :
    let t := after (.fragment 0) (reassembling 5011 (fragmentOf 12 1 false 64))
    (t.desc 7).state = .ready ∧ (t.desc 7).length = 230 ∧ (t.desc 7).chain = [121, 123, 120, 122] ∧
      (t.desc 7).stamp = some 5011 ∧ t.ready 0 = [7] ∧ t.context 4 = none ∧ t.history 0 = [⟨40, 12⟩] ∧
      (t.port 0).controlQueue = [⟨.ack, 40, 12⟩] := by decide +kernel

/-! ### Outbound messages -/

/-- Row 11 of section 9.9: the ACK ends the SENDING message and the line record loses its descriptor. -/
theorem test_ackReceived :
    let t := after (.ackReceived 1) (handing 1 (.ack 12 17) (onSch 1 (fun x => { x with lineRecord := some ⟨0, some 9⟩ })
      (retrying .sending 2 none 2028)))
    t.notices.records = [⟨1, 2028, .txDone 12 17 5 2⟩] ∧ (t.desc 9).state = .free ∧
      (t.sch 1).lineRecord = some ⟨0, none⟩ ∧ t.pool.freeList.drop 512 = [40, 41, 150] := by decide +kernel

/-- The ACK after an OUT WITHDRAW in section 9.9 is stray. -/
theorem test_ackReceived_stray :
    ((after (.ackReceived 1) (handing 1 (.ack 12 17) (running 1 9 base))).port 1).counters.stray = 1 := by decide +kernel

/-- A REFUSE of a message below its attempt limit starts a refuse backoff of 50 ticks (R154). -/
theorem test_refuseReceived :
    let t := after (.refuseReceived 1) (handing 1 (.refuse 12 17 .noBlock) (retrying .awaitAck 1 (some (.armed 2026)) 2010))
    (t.desc 9).state = .backoff ∧ (t.desc 9).deadline = some (.armed 2060) := by decide +kernel

/-- Link 1 of section 9.9 at the start: descriptor 9 is QUEUED and the next-tag counter is 17. -/
def queued : State :=
  onSch 1 (fun x => { x with outboundQueue := [9], nextTag := 17 })
    ((running 1 9 base).setDesc 9 { outbound .queued 0 none with tag := none })

/-- Row 1 of section 9.9. -/
theorem test_frameStart_queued :
    let t := after (.frameStart 1) queued
    (t.desc 9).state = .sending ∧ (t.desc 9).tag = some 17 ∧ (t.desc 9).attempts = 1 ∧
      (t.sch 1).outstanding = [9] ∧ (t.sch 1).nextTag = 18 ∧ (t.sch 1).lineRecord = some ⟨0, some 9⟩ ∧
      (t.port 1).txBuffer.take 7 = [0xA6, 0x31, 12, 9, 17, 0, 64] := by decide +kernel

/-- Row 10 of section 9.9: attempts 2 with the same tag. -/
theorem test_frameStart_resend :
    let t := after (.frameStart 1) (onSch 1 (fun x => { x with resendOrder := [9] }) (retrying .resend 1 none 2026))
    (t.desc 9).state = .sending ∧ (t.desc 9).tag = some 17 ∧ (t.desc 9).attempts = 2 ∧
      (t.sch 1).resendOrder = [] := by decide +kernel

/-- Row 6 of section 9.9: the last fragment has ended at 2006, so the wait ends at 2026. -/
theorem test_frameEnd_last :
    let t := after (.frameEnd 1) (onPort 1 (fun p => { p with transmitter := .active })
      (onSch 1 (fun x => { x with lineRecord := some ⟨2, some 9⟩ }) (retrying .sending 1 none 2006)))
    (t.desc 9).state = .awaitAck ∧ (t.desc 9).deadline = some (.armed 2026) ∧
      (t.port 1).transmitter = .gap := by decide +kernel

/-- Row 2 of section 10.5: at the limit the frame end in STOPPING fails the message and the LINK_STOPPED is lost. -/
theorem test_frameEnd_stopping :
    let t := after (.frameEnd 1) (noticing (List.replicate 31 ⟨0, 0, .linkStopped 0⟩)
      (onPort 1 (fun p => { p with state := .stopping, receiver := .disabled, transmitter := .active })
        (onSch 1 (fun x => { x with lineRecord := some ⟨0, some 9⟩ }) (retrying .sending 4 none 7100))))
    (t.port 1).state = .off ∧ t.notices.records.length = 32 ∧ t.notices.overflow = 1 ∧
      t.notices.records.getLast? = some ⟨1, 7100, .txFailed 12 17 5 4 .stoppedAtLimit⟩ := by decide +kernel

/-- The gap ends in IDLE (R14). -/
theorem test_txGapEnd : ((after (.txGapEnd 3) base).port 3).transmitter = .idle := by decide +kernel

/-! ### Link commands -/

/-- A link with an assigned address starts, with its receiver in SETTLING (R19). -/
theorem test_linkStart :
    let t := after .linkStart (parameters 2 0 0 (onPort 2 (fun p => { p with stationAddress := 17 }) base))
    (t.port 2).state = .run ∧ (t.port 2).receiver = .settling ∧ t.host.outcome = .ok := by decide +kernel

/-- A link without one does not: BAD_PARAM (R19). -/
theorem test_linkStart_unassigned :
    let t := after .linkStart (parameters 2 0 0 base)
    (t.port 2).state = .off ∧ t.host.outcome = .badParam ∧ t.host.command = 1 := by decide +kernel

/-- Section 1.6.1: with a frame on the line the link enters STOPPING, and the six bytes received are uncounted. -/
theorem test_linkStop :
    let t := after .linkStop (parameters 1 0 0 (inFrame 1 [0xA6, 0x31, 9, 40, 1, 0]
      (onPort 1 (fun p => { p with transmitter := .active, controlQueue := [⟨.ack, 40, 1⟩] }) (running 1 9 base))))
    (t.port 1).state = .stopping ∧ (t.port 1).receiver = .disabled ∧ (t.port 1).counters.formatErrors = 0 ∧
      (t.port 1).controlQueue = [⟨.ack, 40, 1⟩] := by decide +kernel

/-- Row 10 of section 4.6: the reset frees the two READY messages and reports them. -/
theorem test_linkReset :
    let t := after .linkReset (((base.setDesc 3 (inbound .ready 1 [5])).setDesc 2 (inbound .ready 0 [6])).setReady 0 [3, 2])
    t.ready 0 = [] ∧ (t.desc 3).state = .free ∧ (t.desc 2).state = .free ∧ t.pool.freeList.drop 512 = [5, 6] ∧
      t.notices.records = [⟨0, 0, .linkReset 0 2 0⟩] := by decide +kernel

/-- COUNTERS CLEAR and NOTICE CLEAR OVERFLOW (R172, R176). -/
theorem test_countersClear :
    ((after .countersClear (count 0 .stray (setLoss 0 base))).port 0).counters = .zero := by decide +kernel
theorem test_noticeClearOverflow :
    (after .noticeClearOverflow { base with notices := ⟨[], 2⟩ }).notices.overflow = 0 := by decide +kernel

/-- CLEAR FLAGS leaves the compose flags (R187). -/
theorem test_clearFlags :
    let t := after .clearFlags (onHost (fun h => { h with cfgReject := true }) (onCompose (fun c => { c with stalled := true }) base))
    t.host.cfgReject = false ∧ t.compose.stalled = true := by decide +kernel

/-- DEVICE RESET leaves the command and outcome registers at 0 and the part INITIALISING (R189, R191). -/
theorem test_deviceReset :
    let t := after .deviceReset base
    t.host.device = .initialising ∧ t.host.command = 0 ∧ t.pool.freeList = [] := by decide +kernel

/-- The codes of NOT_READY and UNKNOWN (R182, R183). -/
theorem test_unknownCommand :
    (after (.unknownCommand 0x04) base).host.outcome.code = 8 ∧
      (after (.unknownCommand 0x04) State.reset).host.outcome.code = 7 := by decide +kernel

/-- RESET low holds the part in reset, and RESET high lets it initialise (R188). -/
theorem test_resetLine :
    (after .resetLineLow base).host.resetLow = true ∧ (after .resetLineLow base).host.device = .initialising ∧
      (after .resetLineHigh (after .resetLineLow base)).host.resetLow = false := by decide +kernel

/-- The rebuild leaves 512 blocks in ascending order (R45). -/
theorem test_freeListRebuilt :
    (after .freeListRebuilt State.reset).pool.freeList = List.finRange 512 := by decide +kernel

/-! ### Service -/

/-- The start of section 7.10: weights 2, 2, 3 and 0, threshold 96, attention on; link 0 with heads of age 28 and 20,
link 1 with a head of age 29. -/
def bidding : State :=
  onArbiter (fun a => { a with
      linkWeight := (((Table.fill 4 2).put 2 3).put 3 0), threshold := 96, attentionEnable := true })
    (((((base.setDesc 0 (inbound .ready 28 [])).setDesc 1 (inbound .ready 20 [])).setDesc 2 (inbound .ready 5 [])).setDesc 3
      { inbound .ready 29 [] with link := 1 }).setReady 0 [0, 1, 2] |>.setReady 1 [3, 4])

/-- The starting bids and row 1 of section 7.10. -/
theorem test_take :
    bidding.linkBid 0 = some 95 ∧ bidding.linkBid 1 = some 95 ∧ bidding.linkBid 2 = none ∧ bidding.leadSource = 0 ∧
      bidding.leadBid = 95 ∧ bidding.attn = false ∧ (after .take bidding).host.outcome = .none := by decide +kernel

/-- Row 2 of section 7.10: link 0 wins the tie, and its next bid is 86. -/
theorem test_takeAny :
    let t := after .takeAny bidding
    t.arbiter.service = .message 0 95 0 ∧ t.linkBid 0 = some 86 ∧ t.leadSource = 1 ∧ t.leadBid = 95 ∧
      t.host.outcome = .ok := by decide +kernel

/-- A message of link 0 is held; its descriptor is 0. -/
def holding (x : Descriptor) : State :=
  onArbiter (fun a => { a with service := .message 0 65 0, overread := true }) (base.setDesc 0 { x with state := .service })

/-- Row 7 of section 3.8: the chain goes back in chain order. -/
theorem test_release :
    let t := after .release (freeing [304] (holding (inbound .service 3 [200, 201, 202])))
    t.pool.freeList = [304, 200, 201, 202] ∧ (t.desc 0).state = .free ∧ t.arbiter.service = .empty ∧
      t.arbiter.overread = true := by decide +kernel

/-- Row 5 of section 4.6: the message is at the head again with age 3. -/
theorem test_requeue :
    let t := after .requeue ((holding (inbound .service 3 [])).setReady 0 [3, 2])
    t.ready 0 = [0, 3, 2] ∧ (t.desc 0).age = 3 ∧ (t.desc 0).state = .ready := by decide +kernel

/-- Row 6 of section 10.5: NO_ROOM, and the record stays. -/
theorem test_requeue_noRoom :
    let n : Notice := ⟨0, 0, .linkStopped 0⟩
    let t := after .requeue (noticing (List.replicate 32 n) (onArbiter (fun a => { a with service := .notice 129 n }) base))
    t.host.outcome = .noRoom ∧ t.arbiter.service = .notice 129 n := by decide +kernel

/-- The held message of 130 bytes of section 7.8, in blocks 0 to 2, with byte 129 equal to 5Ah. -/
def held130 : State :=
  let s := holding { inbound .service 0 [0, 1, 2] with length := 130 }
  { s with pool := { s.pool with blocks := Memory.write [] (blockAddress 2 1) 0x5A } }

/-- The example of section 7.8: the last byte, and the read after it. -/
theorem test_readDataPortRead :
    let t := after .readDataPortRead (onArbiter (fun a => { a with cursor := 129, overread := false }) held130)
    t.host.dataBus = some 0x5A ∧ t.arbiter.cursor = 130 ∧ t.arbiter.overread = false ∧
      (after .readDataPortRead t).host.dataBus = some 0 ∧ (after .readDataPortRead t).arbiter.overread = true := by
  decide +kernel

/-- The example of section 7.8: a cursor write of 2000 leaves the cursor at 130 and sets OVERREAD. -/
theorem test_readCursorWrite :
    let t := after (.readCursorHighWrite 7) (after (.readCursorLowWrite 208)
      (onArbiter (fun a => { a with overread := false }) held130))
    t.arbiter.cursor = 130 ∧ t.arbiter.overread = true := by decide +kernel

/-- A read of the cursor's low byte latches its high bits (R127). -/
theorem test_readCursorLowRead :
    let t := after .readCursorLowRead (onArbiter (fun a => { a with cursor := 1000 }) base)
    t.host.dataBus = some 232 ∧ t.arbiter.cursorReadLatch = 3 := by decide +kernel

/-! ### Composing -/

/-- Row 1 of section 8.8. -/
theorem test_composeOpen :
    let t := after .composeOpen (parameters 1 12 5 (running 1 9 base))
    t.compose.descriptor = some 0 ∧ (t.desc 0).state = .composing ∧ (t.desc 0).peer = 12 ∧
      (t.desc 0).reference = 5 ∧ (t.desc 0).link = 1 ∧ t.host.outcome = .ok := by decide +kernel

/-- The link's own address is no destination (R131). -/
theorem test_composeOpen_own :
    (after .composeOpen (parameters 1 9 5 (running 1 9 base))).host.outcome = .badParam := by decide +kernel

/-- Section 8.8 with the context open on descriptor 9 at the length and the chain given. -/
def composing (length : Nat) (chain free : List BlockNo) : State :=
  onCompose (fun c => { c with descriptor := some 9, writeCount := length })
    ((freeing free base).setDesc 9
      { outbound .composing 0 none with tag := none, fragmentCount := none, length := length, chain := chain })

/-- Row 2 of section 8.8. -/
theorem test_composeDataPortWrite :
    let t := after (.composeDataPortWrite 0x77) (composing 0 [] [40, 41])
    (t.desc 9).chain = [40] ∧ (t.desc 9).length = 1 ∧ t.pool.freeList = [41] ∧ t.pool.usedLength.look 40 = 1 ∧
      t.blockByte 40 0 = 0x77 ∧ t.compose.writeCount = 1 := by decide +kernel

/-- Row 6 of section 8.8. -/
theorem test_composeDataPortWrite_stalls :
    let t := after (.composeDataPortWrite 0x77) (composing 128 [40, 41] [])
    t.compose.stalled = true ∧ (t.desc 9).length = 128 ∧ t.compose.writeCount = 128 := by decide +kernel

/-- Row 11 of section 8.8: fragment count 3. -/
theorem test_composeSubmit :
    let t := after .composeSubmit (composing 130 [40, 41, 150] [])
    (t.desc 9).state = .queued ∧ (t.desc 9).fragmentCount = some 3 ∧ (t.sch 1).outboundQueue = [9] ∧
      t.compose.submitted = 9 ∧ t.compose.writeCount = 130 ∧ t.compose.descriptor = none := by decide +kernel

/-- COMPOSE CANCEL returns the chain (R140). -/
theorem test_composeCancel :
    let t := after .composeCancel (composing 130 [40, 41, 150] [7])
    t.pool.freeList = [7, 40, 41, 150] ∧ (t.desc 9).state = .free := by decide +kernel

/-- The two variations of section 9.9 with OUT WITHDRAW. -/
theorem test_outWithdraw :
    let t := after .outWithdraw (parameters 1 0 5 (retrying .awaitAck 1 (some (.armed 2026)) 2015))
    (t.desc 9).state = .free ∧ t.notices.records = [] ∧ t.host.outcome = .ok ∧
      (after .outWithdraw (parameters 1 0 5 (retrying .sending 2 none 2027))).host.outcome = .busy := by decide +kernel

/-! ### The register window -/

/-- Low-byte reads of 1234h, 512 and 1024 (R26, R34, R137), and of an inbound hold of 3 (R36). -/
theorem test_tickCounterLowRead :
    let t := after .tickCounterLowRead (at_ 0x1234 base)
    t.host.dataBus = some 0x34 ∧ t.time.highLatch = 0x12 := by decide +kernel
theorem test_freeCountLowRead :
    let t := after .freeCountLowRead base
    t.host.dataBus = some 0 ∧ t.pool.freeCountLatch = 2 := by decide +kernel
theorem test_writeCountLowRead :
    let t := after .writeCountLowRead (onCompose (fun c => { c with writeCount := 1024 }) base)
    t.host.dataBus = some 0 ∧ t.compose.writeCountLatch = 4 := by decide +kernel
theorem test_inboundHoldLowRead :
    (after .inboundHoldLowRead (holding (inbound .service 0 [200, 201, 202]))).host.dataBus = some 3 := by decide +kernel

/-- A ceiling of 0110h = 272 is taken in OFF (R185); 0000h is refused. -/
theorem test_ceilingWrite :
    (after (.ceilingHighWrite 1) (after (.ceilingLowWrite 0x10) base)).pool.ceiling.look 0 = 272 ∧
      (after (.ceilingHighWrite 0) base).host.cfgReject = true := by decide +kernel

/-- Link select takes 3 and refuses 4 (R180). -/
theorem test_linkSelectWrite :
    (after (.linkSelectWrite 3) base).host.linkSelect = 3 ∧ (after (.linkSelectWrite 4) base).host.cfgReject = true := by
  decide +kernel

/-- A context quota of 32 is taken in OFF, and 33 is refused (R64). -/
theorem test_configurationWrite :
    (after (.configurationWrite 0x44 32) base).reasm.quota.look 0 = 32 ∧
      (after (.configurationWrite 0x44 33) base).host.cfgReject = true := by decide +kernel

/-- A read-only address ignores a write (R179), and the station address is locked in RUN (R1). -/
theorem test_configurationWrite_ignored :
    (after (.configurationWrite 0x2A 1) base).now = 0 ∧ (after (.configurationWrite 0x2A 1) base).host.cfgReject = false ∧
      (after (.configurationWrite 0x41 3) (running 0 9 base)).host.cfgReject = true := by decide +kernel

/-! ### Witnesses: states that meet the hypotheses of the statements -/

theorem witness_StepRunsTheFrontCommand :
    ({ base with pending := [.tick, .take] } : State).pending = .tick :: [.take] := rfl

theorem reset_quiet : QuietWhileInitialising State.reset :=
  ⟨fun _ => by decide +kernel, fun _ => by decide +kernel, fun _ => by decide +kernel, fun _ => by decide +kernel,
    fun _ => rfl, fun _ => rfl, fun _ => rfl, fun _ => ⟨rfl, rfl, rfl⟩⟩

/-- Each clause at its boundary: 512 periods from reset, 16383 periods before the tick, and 16384 to it. -/
theorem witness_IdleStepsAreReferencePeriods :
    let s := State.reset
    s.pending = [] ∧ s.host.resetLow = false ∧ s.host.device = .initialising ∧ QuietWhileInitialising s ∧
      s.pool.freeList = [] ∧ 512 ≤ 512 ∧ s.time.periodCount + 16383 < s.time.intervalLength ∧ 0 < 16384 ∧
      s.time.periodCount + 16384 = s.time.intervalLength ∧ s.inputs.coming = [] :=
  ⟨rfl, rfl, rfl, reset_quiet, rfl, by decide, by decide, by decide, rfl, rfl⟩

/-- The pins as they are, with RESET high and low; the last period of an interval and the one before it; the part READY;
and the rebuild with no block placed and with all but one. -/
theorem witness_IdleStepsAreReferencePeriods_parts :
    let s := { base with inputs := ⟨Pins.rest, [Pins.rest], false⟩ }
    let last := { base with time := { base.time with periodCount := 16383 } }
    s.pending = [] ∧ s.inputs.coming.head? = some s.inputs.pins ∧ s.host.resetLow = false ∧
      exec .agePulse (countPeriod (steady s)) = .next (after .agePulse (countPeriod (steady s))) ∧
      (after .resetLineLow base).inputs.coming = [] ∧ (after .resetLineLow base).host.resetLow = true ∧
      base.time.periodCount + 1 < base.time.intervalLength ∧
      last.time.intervalLength ≤ last.time.periodCount + 1 ∧ exec .tick last = .next (after .tick last) ∧
      base.host.device = .ready ∧ State.reset.host.device = .initialising ∧ State.reset.host.resetLow = false ∧
      State.reset.pool.freeList = (List.finRange 512).take 0 ∧
      (freeing ((List.finRange 512).take 511) State.reset).pool.freeList = (List.finRange 512).take 511 ∧
      exec .freeListRebuilt State.reset = .next (after .freeListRebuilt State.reset) := by
  refine ⟨rfl, rfl, rfl, rfl, rfl, rfl, by decide, by decide, rfl, rfl, rfl, rfl, ?_, ?_, rfl⟩ <;> decide +kernel

/-- The end of a write; the beginning of a read of an address with a row and of one without; a read held; a release; an
access with all three low; and one that is void. -/
theorem witness_IdleStepsAreReferencePeriods_pins :
    (let s := pinned (selecting .high .low 0x05 7) (selecting .high .high 0x05 7) base
     s.pending = [] ∧ s.inputs.coming = [selecting .high .high 0x05 7] ∧ s.inputs.voided = false ∧
       s.inputs.pins.cs = .low ∧ s.inputs.pins.wr = .low ∧
       exec (.configurationWrite 0x05 7) s = .next (after (.configurationWrite 0x05 7) s)) ∧
    (let s := pinned Pins.rest (selecting .low .high 0x24 0) base
     s.inputs.pins.cs = .high ∧ readAddress .readDataPortRead = some 0x24 ∧
       exec .readDataPortRead s = .next (after .readDataPortRead s)) ∧
    (∀ c, readAddress c ≠ some 0x43) ∧
    (let p := selecting .low .high 0x43 0
     p.cs = .low ∧ p.rd = .low ∧ p.wr = .high ∧ (selecting .high .high 0x43 0).rd = .high ∧
       (selecting .low .low 0x43 0).rd = .low ∧ (selecting .low .low 0x43 0).wr = .low) ∧
    (after .resetLineLow (pinned (selecting .high .low 0x05 7) Pins.rest base)).inputs.voided = true := by
  refine ⟨⟨rfl, rfl, rfl, rfl, rfl, rfl⟩, ⟨rfl, rfl, rfl⟩, fun c => ?_, by decide, by decide +kernel⟩
  cases c <;> simp [readAddress]

theorem witness_DeviceResetReturnsEveryValue : base.operational := ⟨rfl, rfl⟩

/-- With no block placed, and with all but one placed. -/
theorem witness_ResetLineHighAndFreeListRebuilt :
    State.reset.host.device = .initialising ∧ State.reset.host.resetLow = false ∧
      State.reset.pool.freeList = (List.finRange 512).take 0 ∧
      (freeing ((List.finRange 512).take 511) State.reset).pool.freeList = (List.finRange 512).take 511 := by
  decide +kernel

theorem witness_CommandsAreNotReadyOrUnknown :
    commandCode .take = some 0x10 ∧ commandCode (.unknownCommand 0x04) = some 0x04 ∧
      State.reset.host.device = .initialising ∧ State.reset.host.resetLow = false ∧
      (Instr.unknownCommand 0xFF).wellFormed = true := by decide

theorem witness_AccessesWhileTheResetLineIsLow :
    (after .resetLineLow base).host.resetLow = true ∧ (commandCode .deviceReset).isSome ∧
      isDataWrite (.composeDataPortWrite 1) = true ∧ readAddress .readDataPortRead = some 0x24 := by decide +kernel

/-- A command of each kind without its cause. -/
theorem witness_EventsWithoutTheirCauseChangeNothing :
    causeless base .freeListRebuilt ∧ causeless (after .resetLineLow base) .tick ∧ causeless base .agePulse ∧
      causeless base (.contextLifetimeExpiry 0) ∧ causeless base (.acknowledgementWaitExpiry 0) ∧
      causeless base (.refuseBackoffExpiry 95) ∧ causeless base (.settlingGapEnd 0) ∧
      causeless base (.rxFrameComplete 1) ∧ causeless base (.truncation 2) ∧ causeless base (.characterError 3) ∧
      causeless base (.oversizedPayloadLength 0) ∧ causeless base (.fragment 0) ∧ causeless base (.ackReceived 1) ∧
      causeless base (.refuseReceived 2) ∧ causeless base (.frameEnd 3) ∧
      causeless (after .resetLineLow base) (.txGapEnd 0) := by
  refine ⟨Or.inl rfl, rfl, rfl, fun c h => ?_, Or.inl (by decide), Or.inl (by decide),
    show (base.port 0).receiver ≠ .settling by decide +kernel, Or.inl (by decide +kernel), Or.inl (by decide +kernel), Or.inl (by decide +kernel), Or.inl (by decide +kernel),
    fun f h => ?_, fun o g h => ?_, fun o g r h => ?_,
    show (base.port 3).transmitter ≠ .active by decide +kernel, Or.inr rfl⟩
  · have : base.context 0 = none := by decide +kernel
    simp [this] at h
  · have : (base.port 0).handedOver = none := by decide +kernel
    simp [Taking, this] at h
  · have : (base.port 1).handedOver = none := by decide +kernel
    simp [this] at h
  · have : (base.port 2).handedOver = none := by decide +kernel
    simp [this] at h

/-- An expiry due and none; the clauses on the divider: age-step 0, the last tick before a pulse, and the first. -/
theorem witness_TickAndAgePulse :
    base.host.resetLow = false ∧ ¬ Due base ∧ Due (retrying .awaitAck 4 (some (.armed 2026)) 2026) ∧
      (retrying .awaitAck 4 (some (.armed 2026)) 2026).host.resetLow = false ∧ base.time.ageStep ≠ 0 ∧ base.time.divider + 1 ≠ base.time.ageStep ∧
      (after (.configurationWrite 0x2D 0) base).time.ageStep = 0 ∧
      ({ base.time with divider := 9 } : TimeBase).divider + 1 = base.time.ageStep ∧
      0 < ({ base.time with agePulses := 1 } : TimeBase).agePulses ∧
      ((base.setDesc 0 (inbound .ready 31 [])).desc 0).state = .ready ∧ (base.desc 1).state ≠ .ready := by decide +kernel

/-- An age-step of 1, and of 255. -/
theorem witness_FirstAgePulseComesAtTheNthTick :
    1 ≤ (1 : Byte).toNat ∧ 1 ≤ (255 : Byte).toNat ∧ 0 < (1 : Byte).toNat ∧ base.host.resetLow = false := by decide

theorem witness_ContextExpiryAbandonsTheContext :
    let s := (at_ 5100 base).setContext 31 (some outOfOrder)
    s.context 31 = some outOfOrder ∧ outOfOrder.deadline = s.now := by decide +kernel

/-- An acknowledgement wait below the limit and at it, and a refuse backoff. -/
theorem witness_ExpiriesOfOutboundMessages :
    let due := some (Deadline.armed 2026)
    let below := retrying .awaitAck 3 due 2026
    let last := retrying .awaitAck 4 due 2026
    let backoff := retrying .backoff 1 due 2026
    (below.desc 9).link = 1 ∧ (below.desc 9).deadline = some (.armed below.now) ∧ (below.desc 9).state = .awaitAck ∧
      (below.desc 9).attempts < (below.sch 1).attemptLimit ∧
      (last.desc 9).link = 1 ∧ (last.desc 9).deadline = some (.armed last.now) ∧ (last.desc 9).state = .awaitAck ∧
      (last.desc 9).attempts = (last.sch 1).attemptLimit ∧
      (backoff.desc 9).link = 1 ∧ (backoff.desc 9).deadline = some (.armed backoff.now) ∧
      (backoff.desc 9).state = .backoff := by decide +kernel

/-- A receiver in each state, an unfinished frame of 72 bytes, and a payload length of 65, whose end is due. -/
theorem witness_ReceiverTakesCharactersAndDiscardsDamage :
    let unfinished := inFrame 0 ([0xA6, 0x31, 9, 40, 5, 0, 64] ++ List.replicate 65 0) base
    let oversized := inFrame 0 [0xA6, 0x31, 9, 40, 5, 0, 65] base
    (base.port 0).receiver = .disabled ∧ ((running 0 9 base).port 0).receiver = .hunt ∧ (0xA7 : Byte) ≠ 0xA6 ∧
      ((onPort 0 (fun p => { p with receiver := .settling }) base).port 0).receiver = .settling ∧
      (unfinished.port 0).receiver = .frame ∧ Unfinished (unfinished.port 0).rxBuffer ∧
      (oversized.port 0).receiver = .frame ∧ Oversized (oversized.port 0).rxBuffer ∧
      ¬ Unfinished (oversized.port 0).rxBuffer ∧
      exec (.rxFrameComplete 0) oversized = .next (after (.rxFrameComplete 0) oversized) ∧
      exec (.oversizedPayloadLength 0) (after (.rxFrameComplete 0) oversized) =
        .next (after (.oversizedPayloadLength 0) (after (.rxFrameComplete 0) oversized)) := by
  refine ⟨?_, ?_, ?_, ?_, ?_, ?_, ?_, ?_, ?_, rfl, rfl⟩ <;> decide +kernel

/-- The samples: one not yet due and one due; samples that end a character at mark and at space; one at space; and mark
in SETTLING and in an unfinished frame, with a sample of the gap to spare and with none. -/
theorem witness_ReceiverTakesCharactersAndDiscardsDamage_samples :
    let settling (n : Nat) := onPort 0 (fun p => { p with receiver := .settling, lineRate := 7, idleLeft := n }) base
    let unfinished := inFrame 0 [0xA6] (settling 1)
    (base.port 0).sampleCount + 1 < 2 ^ (7 - (base.port 0).lineRate) ∧
      2 ^ (7 - ((settling 2).port 0).lineRate) ≤ ((settling 2).port 0).sampleCount + 1 ∧
      sampleLine .high (.character 151 0xA6) = (.waitStart, some (.character 0xA6)) ∧
      sampleLine .low (.character 151 0xA6) = (.waitMark, some .error) ∧
      sampleLine .low .waitStart = (.character 0 0, none) ∧
      sampleLine ((settling 2).inputs.pins.rxd.look 0) ((settling 2).port 0).sampler = (.waitStart, none) ∧
      (settling 2).inputs.pins.rxd.look 0 = .high ∧ ((settling 2).port 0).receiver = .settling ∧
      1 < ((settling 2).port 0).idleLeft ∧ ((settling 1).port 0).idleLeft ≤ 1 ∧
      (unfinished.port 0).receiver = .frame ∧ Unfinished (unfinished.port 0).rxBuffer ∧
      (unfinished.port 0).idleLeft ≤ 1 := by decide +kernel

/-- A receiver between two characters, in SETTLING, and in a frame that one more character leaves incomplete. -/
theorem witness_ReceiverTakesCharactersAndDiscardsDamage_gap :
    let s (r : ReceiverState) := onPort 0 (fun p => { p with receiver := r, sampler := .waitStart })
      (inFrame 0 [0xA6, 0x31, 9, 40, 5, 128, 0] base)
    (∀ r, ((s r).port 0).sampler = .waitStart ∧ ((s r).port 0).sampleCount = 0) ∧
      ((s .settling).port 0).receiver = .settling ∧ ((s .frame).port 0).receiver = .frame ∧
      Unfinished (((s .frame).port 0).rxBuffer ++ [0x5A]) :=
  ⟨fun _ => ⟨rfl, rfl⟩, rfl, rfl, by decide +kernel⟩

/-- The four clauses, on rows 2, 5, 8 and 7 of section 1.4.1: a bad check, a broken format, another station's frame, and
an accepted frame; all complete with nothing handed over. -/
theorem witness_CompleteFramesAreClassified :
    let bad := inFrame 2 [0xA6, 0x32, 17, 40, 9, 0, 0, 0, 0] (listening ⟨0x32, 17, 40, 9, 0, []⟩)
    let short := listening ⟨0x31, 17, 40, 7, 0, List.replicate 20 1⟩
    let foreign := listening ⟨0x31, 23, 40, 1, 128, List.replicate 5 1⟩
    let mine := listening ⟨0x33, 17, 40, 3, 0, [2]⟩
    let bytes (s : State) := (s.port 2).rxBuffer
    let crc (s : State) := check (((bytes s).drop 1).take (6 + declared (bytes s)))
    let good (s : State) : Prop :=
      ((bytes s).getD (7 + declared (bytes s)) 0).toNat = (crc s).toNat / 256 ∧
        ((bytes s).getD (8 + declared (bytes s)) 0).toNat = (crc s).toNat % 256
    let fields (s : State) : Frame := ⟨(bytes s).getD 1 0, (bytes s).getD 2 0, (bytes s).getD 3 0, (bytes s).getD 4 0,
      (bytes s).getD 5 0, ((bytes s).drop 7).take (declared (bytes s))⟩
    (∀ s ∈ [bad, short, foreign, mine], (s.port 2).receiver = .frame ∧ Complete (bytes s) ∧
        (s.port 2).handedOver = none ∧ (s.port 2).stationAddress = 17) ∧
      ¬ good bad ∧ (∀ s ∈ [short, foreign, mine], good s) ∧
      breaksFormat 17 (fields short) = true ∧ breaksFormat 17 (fields foreign) = false ∧
      passesFilter 17 false (fields foreign) = false ∧ (foreign.port 2).acceptBroadcast = false ∧
      breaksFormat 17 (fields mine) = false ∧ passesFilter 17 false (fields mine) = true ∧
      (mine.port 2).acceptBroadcast = false := by decide +kernel

/-- Nothing handed over; a frame handed over with a period of its character time to spare, and one with none. -/
theorem witness_CompleteFramesAreClassified_handOff :
    let s (n : Nat) := handing 0 (.ack 40 5) (onPort 0 (fun p => { p with lineRate := 7, handedPeriods := n })
      (running 0 9 base))
    let characterTime := 10 * (16 * 2 ^ (7 - ((s 0).port 0).lineRate))
    (base.port 0).handedOver = none ∧ ((s 158).port 0).handedOver ≠ none ∧
      ((s 158).port 0).handedPeriods + 1 < characterTime ∧ ((s 159).port 0).handedOver ≠ none ∧
      characterTime ≤ ((s 159).port 0).handedPeriods + 1 ∧ ((s 159).port 0).state = .run := by decide +kernel

/-- Addresses at both ends of the range, a whole fragment 15, a final one of 64 bytes, and an empty message. -/
theorem witness_BuiltFramesAreAcceptedAsSent :
    1 ≤ 1 ∧ 1 ≤ 254 ∧ 254 ≤ 254 ∧ 1 ≠ 254 ∧ (List.replicate 64 (0 : Byte)).length = 64 ∧
      (List.replicate 64 (0 : Byte) ≠ []) ∧ (([] : List Byte).length ≤ 64 ∧ (([] : List Byte) = [] → (0 : FragNo) = 0)) ∧
      (let s := onPort 0 (fun p => { p with stationAddress := 254 }) (inFrame 0 (framed [0x32, 254, 1, 63, 0, 0]) base)
       (s.port 0).receiver = .frame ∧ (s.port 0).rxBuffer = framed [0x32, 254, 1, 63, 0, 0] ∧
         (s.port 0).stationAddress = 254 ∧ (s.port 0).acceptBroadcast = true ∧
         inTurn (takings 0) s (after (.refuseReceived 0) (after (.ackReceived 0) (after (.fragment 0) s)))) :=
  ⟨by decide, by decide, by decide, by decide, by decide, by decide, by decide, rfl, by decide +kernel,
    by decide +kernel, by decide +kernel, _, rfl, _, rfl, _, rfl, rfl⟩

/-- A transmitter at the first bit of a frame and at the last one of its second character, and one in GAP. -/
theorem witness_BuiltFramesAreAcceptedAsSent_line :
    let s (n : Nat) := onPort 0 (fun p => { p with
      lineRate := 7, transmitter := .active, txBuffer := [0xA6, 0x31], txPeriods := n }) base
    ((s 0).port 0).transmitter = .active ∧ ((s 0).port 0).txBuffer[0]? = some 0xA6 ∧
      ((s 0).port 0).txPeriods / (16 * 2 ^ (7 - ((s 0).port 0).lineRate)) = 10 * 0 + 0 ∧
      ((s 319).port 0).txBuffer[1]? = some 0x31 ∧
      ((s 319).port 0).txPeriods / (16 * 2 ^ (7 - ((s 319).port 0).lineRate)) = 10 * 1 + 9 ∧
      (base.port 0).transmitter ≠ .active := by decide +kernel

/-- A fragment of a message in the history. -/
theorem witness_FragmentOfACompletedMessage :
    let f := fragmentOf 12 0 true 64
    let s := handing 0 (.data f) ((running 0 9 base).setHistory 0 [⟨40, 12⟩])
    Taking 0 f s ∧ (⟨f.origin, f.tag⟩ : Key) ∈ s.history 0 := ⟨⟨by decide +kernel, by decide +kernel⟩, by decide +kernel⟩

/-- Fragment 0 again, in the context of section 5.9. -/
theorem witness_DuplicateFragmentIsOnlyCounted :
    let f := fragmentOf 12 0 false 64
    let s := reassembling 5031 f
    Taking 0 f s ∧ KnownKey 0 f 4 outOfOrder s ∧ outOfOrder.received.look f.number = true :=
  ⟨⟨by decide +kernel, by decide +kernel⟩, ⟨by decide +kernel, by decide +kernel, by decide +kernel⟩, by decide +kernel⟩

/-- A new message on a link whose context quota is used up. -/
theorem witness_FragmentsWithoutRoomAreDropped_context :
    let f := fragmentOf 12 0 true 64
    let s := handing 0 (.data f) ((running 0 9
      { base with reasm := { base.reasm with quota := base.reasm.quota.put 0 1 } }).setContext 0
        (some { outOfOrder with origin := 41 }))
    Taking 0 f s ∧ NewKey 0 f s ∧ s.reasm.quota.look 0 ≤ contextsOf 0 s :=
  ⟨⟨by decide +kernel, by decide +kernel⟩, ⟨by decide +kernel, by decide +kernel⟩, by decide +kernel⟩

/-- Fragment 2 after fragment 4, in the context of section 5.10. -/
theorem witness_MalformedMessageIsAbandoned :
    let c := { outOfOrder with received := (Table.fill 16 false).put 4 true, final := none }
    let f := fragmentOf 12 2 true 64
    let s := handing 0 (.data f) ((running 0 9 base).setContext 4 (some c))
    Taking 0 f s ∧ KnownKey 0 f 4 c s ∧ c.received.look f.number = false ∧
      Conflicts c f :=
  ⟨⟨by decide +kernel, by decide +kernel⟩, ⟨by decide +kernel, by decide +kernel, by decide +kernel⟩, by decide +kernel,
    by decide +kernel⟩

/-- Row 1 of section 5.9, and row 3, with the last block that the reserve of 16 lets be claimed. -/
theorem witness_FragmentsAreStoredInTheirContexts :
    (let f := fragmentOf 12 2 false 64
     let s := handing 0 (.data f) (running 0 9 (freeing ((List.finRange 512).take 17) base))
     MemorySound s ∧ Taking 0 f s ∧ NewKey 0 f s ∧ LowestEntry 0 s ∧ contextsOf 0 s < s.reasm.quota.look 0 ∧
       LowestFree 0 s ∧ f.payload ≠ [] ∧ BlockGranted 0 s ∧ s.pool.freeList.head? = some 0 ∧
       ¬ (f.final = true ∧ f.number = 0)) ∧
    (let c := { outOfOrder with received := ((Table.fill 16 false).put 0 true).put 2 true, final := none }
     let f := fragmentOf 12 3 true 38
     let s := handing 0 (.data f) ((running 0 9 base).setContext 4 (some c))
     MemorySound s ∧ Taking 0 f s ∧ KnownKey 0 f 4 c s ∧ c.received.look f.number = false ∧ ¬ Conflicts c f ∧
       f.payload ≠ [] ∧ BlockGranted 0 s ∧ s.pool.freeList.head? = some 0 ∧
       ∀ last, ¬ WholeWith c f last) := by
  refine ⟨⟨?_, ⟨?_, ?_⟩, ⟨?_, ?_⟩, ?_, ?_, ?_, ?_, ⟨?_, ?_⟩, ?_, ?_⟩, ⟨?_, ⟨?_, ?_⟩, ⟨?_, ?_, ?_⟩, ?_, ?_, ?_, ⟨?_, ?_⟩, ?_, ?_⟩⟩
  all_goals first
    | (show Memory.wf _; decide +kernel)
    | decide +kernel

/-- A message of one fragment, without a payload and with one of 64 bytes. -/
theorem witness_SingleFragmentMessageIsCompletedAtOnce :
    let f := fragmentOf 12 0 true 0
    let g := fragmentOf 12 0 true 64
    let s := handing 0 (.data f) (running 0 9 base)
    let u := handing 0 (.data g) (running 0 9 base)
    (MemorySound s ∧ Taking 0 f s ∧ NewKey 0 f s ∧ LowestEntry 0 s ∧ contextsOf 0 s < s.reasm.quota.look 0 ∧
      LowestFree 0 s ∧ f.final = true ∧ f.number = 0 ∧ f.payload = []) ∧
    (MemorySound u ∧ Taking 0 g u ∧ NewKey 0 g u ∧ LowestEntry 0 u ∧ contextsOf 0 u < u.reasm.quota.look 0 ∧
      LowestFree 0 u ∧ g.final = true ∧ g.number = 0 ∧ g.payload ≠ [] ∧ BlockGranted 0 u ∧
      u.pool.freeList.head? = some 0) := by
  refine ⟨⟨?_, ⟨?_, ?_⟩, ⟨?_, ?_⟩, ?_, ?_, ?_, ?_, ?_, ?_⟩, ⟨?_, ⟨?_, ?_⟩, ⟨?_, ?_⟩, ?_, ?_, ?_, ?_, ?_, ?_, ⟨?_, ?_⟩, ?_⟩⟩
  all_goals first
    | (show Memory.wf _; decide +kernel)
    | decide +kernel

/-- Row 4 of section 5.9. -/
theorem witness_WholeMessageIsCompleted :
    let f := fragmentOf 12 1 false 64
    let s := reassembling 5011 f
    MemorySound s ∧ Taking 0 f s ∧ KnownKey 0 f 4 outOfOrder s ∧ outOfOrder.received.look f.number = false ∧
      ¬ Conflicts outOfOrder f ∧ f.payload ≠ [] ∧ BlockGranted 0 s ∧ s.pool.freeList.head? = some 123 ∧
      WholeWith outOfOrder f 3 := by
  refine ⟨?_, ⟨?_, ?_⟩, ⟨?_, ?_, ?_⟩, ?_, ?_, ?_, ⟨?_, ?_⟩, ?_, ?_, ?_⟩
  all_goals first
    | (show Memory.wf _; decide +kernel)
    | decide +kernel

theorem witness_AckEndsTheMatchedMessage :
    let s := handing 1 (.ack 12 17) (retrying .awaitAck 1 (some (.armed 2026)) 2010)
    (s.port 1).handedOver = some (.ack 12 17) ∧ Matches 1 12 17 9 s :=
  ⟨by decide +kernel, matching_eq_some_iff.1 (by decide +kernel)⟩

/-- A message below its attempt limit, one at it, no message at all, and one in BACKOFF. -/
theorem witness_RefuseEndsTheAttemptAndStraysAreCounted :
    let refuse : HandedFrame := .refuse 12 17 .noBlock
    let below := handing 1 refuse (retrying .sending 3 none 2010)
    let last := handing 1 refuse (retrying .awaitAck 4 (some (.armed 2026)) 2010)
    let waiting := handing 1 refuse (retrying .backoff 1 (some (.armed 2026)) 2010)
    let nothing := handing 1 (.ack 12 17) base
    (below.port 1).handedOver = some refuse ∧ Matches 1 12 17 9 below ∧ (below.desc 9).state = .sending ∧
      (below.desc 9).attempts < (below.sch 1).attemptLimit ∧
      (last.port 1).handedOver = some refuse ∧ Matches 1 12 17 9 last ∧ (last.desc 9).state = .awaitAck ∧
      (last.desc 9).attempts = (last.sch 1).attemptLimit ∧
      (waiting.port 1).handedOver = some refuse ∧ Matches 1 12 17 9 waiting ∧
      (waiting.desc 9).state = .backoff ∧
      (nothing.port 1).handedOver = some (.ack 12 17) ∧ MatchesNone 1 12 17 nothing := by
  refine ⟨?_, matching_eq_some_iff.1 ?_, ?_, ?_, ?_, matching_eq_some_iff.1 ?_, ?_, ?_, ?_, matching_eq_some_iff.1 ?_, ?_, ?_, ?_⟩ <;>
    decide +kernel

/-- Link 1 in RUN and IDLE with a REFUSE waiting, and an OFF link. -/
theorem witness_FrameStartTakesControlRequestsFirst :
    let s := onPort 1 (fun p => { p with controlQueue := [⟨.refuse .noBlock, 40, 63⟩] }) (running 1 9 base)
    (s.port 1).state = .run ∧ (s.port 1).transmitter = .idle ∧
      (s.port 1).controlQueue = [⟨.refuse .noBlock, 40, 63⟩] ∧ (base.port 0).state ≠ .run ∧
      (base.port 1).controlQueue = [] ∧ SendsNone 1 base ∧ (base.sch 1).resendOrder = [] ∧
      (base.sch 1).outboundQueue = [] := by decide +kernel

/-- The three offers of R147. -/
theorem witness_FrameStartTakesTheOffer :
    let sending := retrying .sending 1 none 2003
    let resend := onSch 1 (fun x => { x with resendOrder := [9] }) (retrying .resend 1 none 2026)
    (∀ s ∈ [sending, resend, queued], (s.port 1).state = .run ∧ (s.port 1).transmitter = .idle ∧
        (s.port 1).controlQueue = []) ∧
      Sending 1 9 sending ∧
      SendsNone 1 resend ∧ (resend.sch 1).resendOrder = [9] ∧
      SendsNone 1 queued ∧ (queued.sch 1).resendOrder = [] ∧ (queued.sch 1).outboundQueue = [9] ∧
      (queued.sch 1).outstanding.length < (queued.sch 1).outstandingLimit := by
  refine ⟨?_, sendingOf_eq_some_iff.1 ?_, ?_, ?_, ?_, ?_, ?_, ?_⟩ <;> decide +kernel

/-- Four messages outstanding, the most that the limit allows. -/
theorem witness_TagGivenIsTheFirstOneFree :
    ((onSch 1 (fun x => { x with outstanding := [0, 1, 2, 3] }) base).sch 1).outstanding.length ≤ 4 := by decide +kernel

/-- Fragment 1 of 3, the last fragment of a unicast and of a broadcast message, a line record without a descriptor, and a
gap. -/
theorem witness_FrameEndMovesTheMessageOn :
    let active (line : LineRecord) (s : State) : State :=
      onPort 1 (fun p => { p with transmitter := .active }) (onSch 1 (fun x => { x with lineRecord := some line }) s)
    let more := active ⟨1, some 9⟩ (retrying .sending 1 none 2006)
    let last := active ⟨2, some 9⟩ (retrying .sending 1 none 2006)
    let all := active ⟨2, some 9⟩ ((retrying .sending 1 none 2006).setDesc 9
      { outbound .sending 1 none with broadcast := true, peer := 255 })
    let control := active ⟨0, none⟩ (running 1 9 base)
    (∀ s ∈ [more, last, all, control], (s.port 1).transmitter = .active ∧ (s.port 1).state ≠ .stopping) ∧
      ((more.sch 1).lineRecord = some ⟨1, some 9⟩ ∧ (more.desc 9).state = .sending ∧
        1 + 1 < (more.desc 9).fragmentCount.getD 1) ∧
      ((last.sch 1).lineRecord = some ⟨2, some 9⟩ ∧ (last.desc 9).state = .sending ∧
        (last.desc 9).fragmentCount.getD 1 ≤ 2 + 1 ∧ (last.desc 9).broadcast = false) ∧
      ((all.sch 1).lineRecord = some ⟨2, some 9⟩ ∧ (all.desc 9).state = .sending ∧
        (all.desc 9).fragmentCount.getD 1 ≤ 2 + 1 ∧ (all.desc 9).broadcast = true) ∧
      (control.sch 1).lineRecord = some ⟨0, none⟩ ∧
      (base.port 1).transmitter = .gap ∧ base.host.resetLow = false := by decide +kernel

/-- One character at line rate 7 with one period to go and with none, a gap likewise, and a transmitter in IDLE. -/
theorem witness_FrameEndMovesTheMessageOn_periods :
    let p (x : TransmitterState) (n : Nat) : LinkPort :=
      { LinkPort.reset with lineRate := 7, transmitter := x, txBuffer := [0xA6], txPeriods := n }
    (p .active 158).txPeriods + 1 < 10 * (p .active 158).txBuffer.length * (16 * 2 ^ (7 - (p .active 158).lineRate)) ∧
      10 * (p .active 159).txBuffer.length * (16 * 2 ^ (7 - (p .active 159).lineRate)) ≤ (p .active 159).txPeriods + 1 ∧
      (p .gap 318).txPeriods + 1 < 20 * (16 * 2 ^ (7 - (p .gap 318).lineRate)) ∧
      20 * (16 * 2 ^ (7 - (p .gap 319).lineRate)) ≤ (p .gap 319).txPeriods + 1 ∧
      ((running 1 9 base).port 1).transmitter = .idle ∧
      exec (.frameStart 1) (running 1 9 base) = .next (after (.frameStart 1) (running 1 9 base)) :=
  ⟨by decide, by decide, by decide, by decide, rfl, rfl⟩

/-- P0 above 3; an OFF link without and with an address; a link in RUN; and one in RUN with a frame on the line. -/
theorem witness_LinkStartEntersRunAndLinkStopStopping :
    let beyond := parameters 4 0 0 base
    let unassigned := parameters 3 0 0 base
    let assigned := parameters 3 0 0 (onPort 3 (fun p => { p with stationAddress := 254 }) base)
    let sending := parameters 3 0 0 (onPort 3 (fun p => { p with transmitter := .active }) (running 3 9 base))
    4 ≤ beyond.host.p0.toNat ∧
      (unassigned.host.p0.toNat = (3 : Link).val ∧ (unassigned.port 3).state = .off ∧
        (unassigned.port 3).stationAddress = 0) ∧
      (assigned.host.p0.toNat = (3 : Link).val ∧ (assigned.port 3).state = .off ∧
        (assigned.port 3).stationAddress ≠ 0) ∧
      (sending.host.p0.toNat = (3 : Link).val ∧ (sending.port 3).state = .run ∧
        (sending.port 3).transmitter = .active) := by decide +kernel

/-! A state with one message in each place of link 0. -/

def oneContext : Context where
  link := 0
  origin := 40
  tag := 12
  descriptor := 3
  received := (Table.fill 16 false).put 0 true
  final := none
  slots := (Table.fill 16 none).put 0 (some 3)
  deadline := 100

/-- Link 0 in RUN holds a READY message, the SERVICE message, a context, a QUEUED message and one of the state given,
which is outstanding; the compose context is open. -/
def busyWith (st : DescState) (attempts : Nat) : State :=
  let s := parameters 0 0 0 (freeing ((List.finRange 512).drop 5) (running 0 9 base))
  let s := (((s.setDesc 0 (inbound .ready 0 [0])).setReady 0 [0]).setDesc 1 (inbound .service 0 [1])).setDesc 2
    { inbound st 0 [2] with tag := some 5, attempts := attempts }
  let s := ((s.setDesc 3 (assembling 0 40 12)).setContext 0 (some oneContext)).setDesc 4 (inbound .queued 0 [4])
  let s := onArbiter (fun a => { a with service := .message 0 65 1 }) (s.setDesc 5 (inbound .composing 0 []))
  onSch 0 (fun x => { x with outboundQueue := [4], outstanding := [2] }) (onCompose (fun c => { c with descriptor := some 5 }) s)

/-- The state with the outstanding message SENDING. -/
def busy : State := busyWith .sending 1

theorem busy_context {e : EntryNo} {c : Context} (h : busy.context e = some c) : e = 0 ∧ c = oneContext := by
  have all : ∀ e, (busy.context e).all (fun c => decide (e = 0 ∧ c = oneContext)) = true := by decide +kernel
  have := all e
  rw [h] at this
  simpa using this

/-- Every descriptor of that state has exactly its one holder. -/
theorem busy_holders : HoldersSound busy where
  context := fun e c h => by obtain ⟨rfl, rfl⟩ := busy_context h; decide +kernel
  contextOnce := fun e e' c c' h h' _ => (busy_context h).1.trans (busy_context h').1.symm
  ready := by decide +kernel
  readyOnce := by decide +kernel
  service := by decide +kernel
  composing := by decide +kernel
  queued := by decide +kernel
  queuedOnce := by decide +kernel
  outstanding := by decide +kernel
  outstandingOnce := by decide +kernel
  resend := by decide +kernel
  resendOnce := by decide +kernel
  assemblingHeld := fun d h => by
    have only : ∀ d, (busy.desc d).state = .assembling → d = 3 := by decide +kernel
    exact ⟨0, oneContext, by decide +kernel, (only d h).symm⟩
  readyHeld := by decide +kernel
  serviceHeld := by decide +kernel
  composingHeld := by decide +kernel
  queuedHeld := by decide +kernel
  outstandingHeld := by decide +kernel
  resendHeld := by decide +kernel
  freeCleared := by decide +kernel
  sendingOnce := fun d d' h h' _ => by
    have only : ∀ d, (busy.desc d).state = .sending → d = 2 := by decide +kernel
    rw [only d h, only d' h']
  line := fun L n d h => by
    have none : ∀ L, (busy.sch L).lineRecord = none := by decide +kernel
    simp [none L] at h

/-- The hold of link 0 is 3, and its ceiling is made 16 with the free count below the reserve. -/
def scarce (f : Fragment) : State := handing 0 (.data f) (freeing ((List.finRange 512).drop 500) busy)

/-- Only a port and the free list have changed, which the holders do not depend on. -/
theorem holders_of_same {s t : State} (h : HoldersSound s) (ht : t.table = s.table) (hr : t.reasm = s.reasm)
    (hs : t.sched = s.sched) (hc : t.compose = s.compose) (ha : t.arbiter = s.arbiter) : HoldersSound t := by
  have e : t = { s with
      pending := t.pending, ports := t.ports, time := t.time, pool := t.pool, notices := t.notices, host := t.host,
      inputs := t.inputs } := by
    cases t; cases s; simp_all
  rw [e]
  exact ⟨h.context, h.contextOnce, h.ready, h.readyOnce, h.service, h.composing, h.queued, h.queuedOnce, h.outstanding,
    h.outstandingOnce, h.resend, h.resendOnce, h.assemblingHeld, h.readyHeld, h.serviceHeld, h.composingHeld,
    h.queuedHeld, h.outstandingHeld, h.resendHeld, h.freeCleared, h.sendingOnce, h.line⟩

/-- The free count at the reserve or below, for a new key and for the existing context. -/
theorem witness_FragmentsWithoutRoomAreDropped_block :
    (let f := fragmentOf 13 0 true 64
     HoldersSound (scarce f) ∧ Taking 0 f (scarce f) ∧ f.payload ≠ [] ∧ ¬ BlockGranted 0 (scarce f) ∧
       NewKey 0 f (scarce f) ∧ (∃ e, (scarce f).context e = none) ∧
       contextsOf 0 (scarce f) < (scarce f).reasm.quota.look 0 ∧ ∃ d, ((scarce f).desc d).state = .free) ∧
    (let f := fragmentOf 12 1 true 64
     HoldersSound (scarce f) ∧ Taking 0 f (scarce f) ∧ f.payload ≠ [] ∧ ¬ BlockGranted 0 (scarce f) ∧
       KnownKey 0 f 0 oneContext (scarce f) ∧ oneContext.received.look f.number = false ∧
       ¬ Conflicts oneContext f) := by
  have few : ¬ (freeing ((List.finRange 512).drop 500) busy).pool.reserve <
      (freeing ((List.finRange 512).drop 500) busy).pool.freeList.length := by decide +kernel
  have same : ∀ f, (scarce f).pool = (freeing ((List.finRange 512).drop 500) busy).pool := fun _ => rfl
  have low : ∀ f, ¬ BlockGranted 0 (scarce f) := fun f h => few (same f ▸ h.1)
  refine ⟨⟨holders_of_same busy_holders rfl rfl rfl rfl rfl, ⟨?_, ?_⟩, ?_, low _, ⟨?_, ?_⟩, ?_, ?_, ?_⟩,
    ⟨holders_of_same busy_holders rfl rfl rfl rfl rfl, ⟨?_, ?_⟩, ?_, low _, ⟨?_, ?_, ?_⟩, ?_, ?_⟩⟩
  all_goals decide +kernel

/-- LINK_STOP with the line free, and FRAME_END in STOPPING, both with a context and a SENDING message. -/
theorem witness_StoppingLinkEntersOff :
    HoldersSound busy ∧ busy.operational ∧ busy.host.p0.toNat = (0 : Link).val ∧ (busy.port 0).state = .run ∧
      (busy.port 0).transmitter ≠ .active ∧ (busy.sch 0).lineRecord = none ∧
      (let s := onPort 0 (fun p => { p with state := .stopping, transmitter := .active, receiver := .disabled }) busy
       HoldersSound s ∧ (s.port 0).state = .stopping ∧ (s.port 0).transmitter = .active) :=
  ⟨busy_holders, ⟨rfl, rfl⟩, rfl, by decide +kernel, by decide +kernel, by decide +kernel,
    holders_of_same busy_holders rfl rfl rfl rfl rfl, by decide +kernel, by decide +kernel⟩

theorem witness_LinkResetClearsTheLink :
    busy.operational ∧ HoldersSound busy ∧ busy.host.p0.toNat = (0 : Link).val ∧
      4 ≤ (parameters 255 0 0 base).host.p0.toNat := ⟨⟨rfl, rfl⟩, busy_holders, rfl, by decide⟩

theorem witness_LinksAreIndependent :
    HoldersSound busy ∧ concerns busy .linkReset = some 0 ∧ (1 : Link) ≠ 0 ∧
      exec .linkReset busy = .next (after .linkReset busy) := ⟨busy_holders, by decide +kernel, by decide, rfl⟩

theorem witness_CountersClearAndClearOverflow :
    base.operational ∧ base.host.p0.toNat = (0 : Link).val ∧ 4 ≤ (parameters 4 0 0 base).host.p0.toNat :=
  ⟨⟨rfl, rfl⟩, rfl, by decide⟩

theorem witness_ClearFlagsClearsTwoFlags :
    base.host.resetLow = false ∧ base.host.device = .ready ∧ State.reset.host.resetLow = false ∧
      State.reset.host.device = .initialising := by decide

/-- A link with messages and one without; a notice queue with a record and one without. -/
theorem witness_BidsAreWeightAndUrgency :
    busy.ready 0 = [0] ∧ busy.ready 1 = [] ∧ busy.notices.records = [] ∧
      (noticing [⟨0, 0, .linkStopped 0⟩] busy).notices.records ≠ [] := by decide +kernel

/-- The winner is a link in one state and the notice queue in another; an item is held in a third, and nothing bids in a
fourth. -/
theorem witness_TakeServesTheWinner :
    let s := onArbiter (fun a => { a with service := .empty }) busy
    let u := noticing [⟨0, 0, .linkStopped 0⟩] s
    s.operational ∧ s.arbiter.service = .empty ∧ s.winner = some (.link 0, 65) ∧ s.ready 0 = [0] ∧
      s.arbiter.threshold < 65 ∧
      u.winner = some (.noticeQueue, 129) ∧ u.notices.records = [⟨0, 0, .linkStopped 0⟩] ∧ u.arbiter.threshold < 129 ∧
      busy.arbiter.service ≠ .empty ∧ base.arbiter.service = .empty ∧ (∀ x, base.bid x = none) :=
  ⟨⟨rfl, rfl⟩, rfl, by decide +kernel, by decide +kernel, by decide +kernel, by decide +kernel, by decide +kernel,
    by decide +kernel, by decide +kernel, by decide +kernel, fun x => by
      have none : ∀ L, base.bid (.link L) = none := by decide +kernel
      cases x with
      | link L => exact none L
      | noticeQueue => decide +kernel⟩

/-- The service window with a message, a notice and nothing held. -/
theorem witness_TakeServesTheWinner_window :
    let s := onArbiter (fun a => { a with service := .notice 129 ⟨0, 0, .linkStopped 0⟩ }) base
    busy.arbiter.service = .message 0 65 1 ∧ s.arbiter.service = .notice 129 ⟨0, 0, .linkStopped 0⟩ ∧
      base.arbiter.service = .empty := ⟨rfl, rfl, rfl⟩

theorem witness_ReleaseFreesTheMessage :
    busy.operational ∧ HoldersSound busy ∧ busy.arbiter.service = .message 0 65 1 := ⟨⟨rfl, rfl⟩, busy_holders, rfl⟩

/-- A message held, a notice held with room in the queue and without, and nothing held. -/
theorem witness_RequeueReturnsTheItem :
    busy.operational ∧ busy.arbiter.service = .message 0 65 1 ∧
    let n : Notice := ⟨0, 0, .linkStopped 0⟩
    let s := onArbiter (fun a => { a with service := .notice 129 n }) base
    s.operational ∧ s.arbiter.service = .notice 129 n ∧ s.notices.records.length < 32 ∧
      32 ≤ (noticing (List.replicate 32 n) s).notices.records.length ∧ base.arbiter.service = .empty :=
  ⟨⟨rfl, rfl⟩, rfl, ⟨rfl, rfl⟩, rfl, by decide, by decide, rfl⟩

theorem witness_ReleaseOfANoticeOrOfNothing :
    let s := onArbiter (fun a => { a with service := .notice 129 ⟨0, 0, .linkStopped 0⟩ }) base
    s.operational ∧ s.arbiter.service = .notice 129 ⟨0, 0, .linkStopped 0⟩ ∧ base.arbiter.service = .empty :=
  ⟨⟨rfl, rfl⟩, rfl, rfl⟩

/-- The cursor on the last byte of the message of section 7.8 and behind it, and cursor writes of 130 and 131. -/
theorem witness_ReadDataPortAndReadCursor :
    let s := onArbiter (fun a => { a with cursor := 129, cursorWriteLatch := 130 }) held130
    s.host.resetLow = false ∧ s.host.device = .ready ∧ s.arbiter.service = .message 0 65 0 ∧
      s.arbiter.cursor < (s.desc 0).length ∧ (s.desc 0).chain[s.arbiter.cursor / 64]? = some 2 ∧
      256 * (0 : Byte).toNat + s.arbiter.cursorWriteLatch.toNat ≤ (s.desc 0).length ∧
      (s.desc 0).length < 256 * (0 : Byte).toNat + (131 : Byte).toNat ∧
      (s.desc 0).length ≤ (onArbiter (fun a => { a with cursor := 130 }) s).arbiter.cursor ∧
      State.reset.arbiter.service = .empty := by decide +kernel

/-- The context open; P0 above 3; the link's own address; no FREE descriptor; and all tests passed. -/
theorem witness_ComposeOpenClaimsADescriptor :
    busy.operational ∧ busy.compose.descriptor ≠ none ∧
      (let s := parameters 1 12 5 (running 1 9 base)
       s.compose.descriptor = none ∧ s.host.p0.toNat = (1 : Link).val ∧ s.host.p1.toNat ≠ 0 ∧
         s.host.p1.toNat ≠ (s.port 1).stationAddress ∧ LowestFree 0 s) ∧
      (let s := parameters 1 9 5 (running 1 9 base)
       s.host.p1.toNat = (s.port 1).stationAddress) ∧
      (let s := { base with table := { base.table with descriptors := Table.fill 96 (inbound .ready 0 []) } }
       ∀ d, (s.desc d).state ≠ .free) :=
  ⟨⟨rfl, rfl⟩, by decide +kernel, by decide +kernel, by decide +kernel, by decide +kernel⟩

theorem witness_ComposeSubmitAndCancelCloseTheContext :
    base.operational ∧ base.compose.descriptor = none ∧ busy.operational ∧ busy.compose.descriptor = some 5 :=
  ⟨⟨rfl, rfl⟩, rfl, ⟨rfl, rfl⟩, rfl⟩

/-- The five clauses at lengths 64, 65 and 1024, with a block free and without. -/
theorem witness_ComposeDataPortTakesOrRefusesAByte :
    (∀ s ∈ [composing 64 [40] [], composing 64 [40] [41], composing 65 [40, 41] [], composing 1024 [] []],
        s.host.resetLow = false ∧ s.host.device = .ready ∧ s.compose.descriptor = some 9) ∧
      ((composing 64 [40] []).desc 9).length = 64 ∧ (composing 64 [40] []).pool.freeList = [] ∧
      (composing 64 [40] [41]).pool.freeList = [41] ∧
      ((composing 65 [40, 41] []).desc 9).length = 65 ∧ ((composing 65 [40, 41] []).desc 9).chain.getLast? = some 41 ∧
      1024 ≤ ((composing 1024 [] []).desc 9).length ∧ base.compose.descriptor = none ∧ Memory.wf [(0, 1), (5, 2)] := by
  decide +kernel

/-- A match that waits, one that is SENDING, no match, and P0 above 3. -/
theorem witness_OutWithdrawFreesTheOldestMatch :
    (let s := parameters 1 0 5 (retrying .awaitAck 1 (some (.armed 2026)) 2015)
     s.operational ∧ s.host.p0.toNat = (1 : Link).val ∧
       (s.sch 1).outstanding ++ (s.sch 1).outboundQueue = [] ++ 9 :: [] ∧ (s.desc 9).reference = s.host.p2 ∧
       (s.desc 9).state ≠ .sending) ∧
    (let s := parameters 1 0 6 (retrying .sending 1 none 2015)
     (s.desc 9).state = .sending ∧ (∀ d ∈ (s.sch 1).outstanding ++ (s.sch 1).outboundQueue, (s.desc d).reference ≠ s.host.p2)) ∧
    4 ≤ (parameters 4 0 0 base).host.p0.toNat :=
  ⟨⟨⟨rfl, rfl⟩, by decide +kernel, by decide +kernel, by decide +kernel, by decide +kernel⟩, by decide +kernel, by decide⟩

theorem witness_LowByteReadsLatchTheRest : base.host.resetLow = false := rfl

/-- Ceilings of 16 and 512 taken, 15 and 513 refused; link selects 3 and 4. -/
theorem witness_LinkSelectAndCeilingWrites :
    base.host.resetLow = false ∧ (base.port base.host.linkSelect).state = .off ∧
      holdOf base.host.linkSelect base ≤ 16 ∧ 16 ≤ 256 * (0 : Byte).toNat + (16 : Byte).toNat ∧
      256 * (2 : Byte).toNat + (0 : Byte).toNat ≤ 512 ∧ ¬ 16 ≤ 256 * (0 : Byte).toNat + (15 : Byte).toNat ∧
      ¬ 256 * (2 : Byte).toNat + (1 : Byte).toNat ≤ 512 ∧ (3 : Byte).toNat = (3 : Link).val ∧ 4 ≤ (4 : Byte).toNat := by
  decide +kernel

/-- A setting taken at the end of its range and refused above it, a parameter, and an address that ignores writes. -/
theorem witness_ConfigurationWritesAreTakenOrRefused :
    base.host.resetLow = false ∧ (Instr.configurationWrite 0x44 32).wellFormed = true ∧
      (0x44 : BitVec 7).toNat = addressOf .contextQuota ∧ writable base.host.linkSelect base 32 .contextQuota ∧
      ¬ writable base.host.linkSelect base 33 .contextQuota ∧ (Instr.configurationWrite 0x07 1).wellFormed = true ∧
      (∀ x, (0x40 : BitVec 7).toNat ≠ addressOf x) ∧ (0x40 : BitVec 7) ≠ 0x05 := by
  refine ⟨rfl, rfl, rfl, ?_, ?_, rfl, fun x => by cases x <;> decide, by decide⟩
  · show 1 ≤ 32 ∧ 32 ≤ 32 ∧ (base.port base.host.linkSelect).state = .off
    decide +kernel
  · show ¬ (1 ≤ 33 ∧ 33 ≤ 32 ∧ (base.port base.host.linkSelect).state = .off)
    decide +kernel

/-- The floors of the outstanding limit and of the attempt limit, met and missed by one (R146). -/
theorem witness_ConfigurationWritesAreTakenOrRefused_floors :
    let s (st : DescState) := onPort 1 (fun p => { p with state := .off }) (retrying st 2 none 2026)
    ((s .resend).port 1).state = .off ∧ ((s .resend).sch 1).outstanding.length ≤ 1 ∧
      (∀ d, ((s .awaitAck).desc d).link = 1 → ((s .awaitAck).desc d).attempts ≤ 2) ∧
      (((s .resend).desc 9).link = 1 ∧ ((s .resend).desc 9).state = .resend ∧ ¬ ((s .resend).desc 9).attempts < 2) := by
  decide +kernel

/-! The invariants on the busy state and on the empty READY part. -/

theorem busy_settings : SettingsLegal busy where
  prescale := by decide
  ageStep := by decide
  reserve := by decide
  noticeWeight := by decide
  threshold := by decide
  links := fun L => by
    constructor <;> revert L <;> decide +kernel

theorem witness_EveryStepKeepsTheSettingsLegal :
    SettingsLegal busy ∧ PeriodInInterval busy ∧ step busy = .next (clockPeriod busy) :=
  ⟨busy_settings, ⟨by decide, 3, by decide, by decide⟩, rfl⟩

theorem busy_steps : step busy = .next (clockPeriod busy) := rfl

theorem busy_deadlines : DeadlinesAhead busy where
  contexts := fun e c h => by obtain ⟨-, rfl⟩ := busy_context h; decide +kernel
  messages := fun d t h _ => by
    have none : ∀ d, ¬ ((busy.desc d).state = .awaitAck ∨ (busy.desc d).state = .backoff) := by decide +kernel
    exact absurd h (none d)

theorem witness_EveryStepKeepsDeadlinesAhead :
    SettingsLegal busy ∧ DeadlinesAhead busy ∧ step busy = .next (clockPeriod busy) :=
  ⟨busy_settings, busy_deadlines, busy_steps⟩

theorem witness_EveryStepKeepsTheBoundsAndTheMemoryForm :
    step busy = .next (clockPeriod busy) ∧ QueuesBounded busy ∧ MemorySound busy :=
  ⟨busy_steps, ⟨by decide, by decide, by decide +kernel, by decide +kernel,
    fun L => by constructor <;> revert L <;> decide +kernel, by decide +kernel⟩, by show Memory.wf _; decide⟩

theorem witness_EveryStepKeepsTheLinksSound :
    LinksSound busy ∧ QuotaKept busy ∧ step busy = .next (clockPeriod busy) := by
  refine ⟨fun L => ?_, by unfold QuotaKept; decide +kernel, busy_steps⟩
  refine ⟨?_, ?_, ?_, ?_, ?_, ?_, ?_, ?_, ?_, ?_, fun h e c hc hL => ?_⟩
  on_goal 11 => obtain ⟨-, rfl⟩ := busy_context hc; subst hL; revert h; decide +kernel
  all_goals revert L; decide +kernel

theorem busy_keys : KeysDistinct busy where
  contexts := fun e e' c c' h h' _ _ _ => (busy_context h).1.trans (busy_context h').1.symm
  history := by decide +kernel
  apart := fun e c h => by obtain ⟨-, rfl⟩ := busy_context h; decide +kernel

theorem witness_EveryStepKeepsTheKeysDistinct : KeysDistinct busy ∧ step busy = .next (clockPeriod busy) :=
  ⟨busy_keys, busy_steps⟩

theorem witness_EveryStepKeepsOneHolderPerDescriptor : HoldersSound busy ∧ step busy = .next (clockPeriod busy) :=
  ⟨busy_holders, busy_steps⟩

theorem witness_EveryStepKeepsTheOutstandingLimits :
    SettingsLegal busy ∧ HoldersSound busy ∧ OutstandingSound busy ∧ step busy = .next (clockPeriod busy) :=
  ⟨busy_settings, busy_holders, ⟨by decide +kernel, by decide +kernel, by decide +kernel, by decide +kernel,
    by decide +kernel⟩, busy_steps⟩

theorem witness_EveryStepKeepsTheHoldWithinTheCeiling :
    HoldersSound busy ∧ HoldWithinCeiling busy ∧ step busy = .next (clockPeriod busy) :=
  ⟨busy_holders, by unfold HoldWithinCeiling; decide +kernel, busy_steps⟩

theorem busy_first_blocks (b : BlockNo) (hb : b.val < 5) : placesOf busy b = 1 := by
  have first : ∀ i : Fin 5, placesOf busy (i.castLE (by decide)) = 1 := by decide +kernel
  exact first ⟨b.val, hb⟩

/-- Every block of that state is in exactly one place. -/
theorem busy_blocks (b : BlockNo) : placesOf busy b = 1 := by
  by_cases hb : b.val < 5
  · exact busy_first_blocks b hb
  · have free : busy.pool.freeList = (List.finRange 512).drop 5 := by decide +kernel
    have listed : b ∈ (List.finRange 512).drop 5 :=
      List.mem_drop_iff_getElem.2 ⟨b.val - 5, by simp; omega, Fin.ext (by simp; omega)⟩
    have once : ((List.finRange 512).drop 5).count b = 1 :=
      List.count_eq_one_of_mem ((List.nodup_finRange 512).sublist (List.drop_sublist ..)) listed
    have slots : ∀ e, ((busy.context e).elim [] slotBlocks).all (fun i => decide (i.val < 5)) = true := by decide +kernel
    have chains : ∀ d, (busy.desc d).chain.all (fun i => decide (i.val < 5)) = true := by decide +kernel
    simp only [List.all_eq_true, decide_eq_true_eq] at slots chains
    have noSlot : ((List.finRange 32).map fun e => slotCount b (busy.context e)).sum = 0 := by
      refine List.sum_eq_zero fun n hn => ?_
      obtain ⟨e, -, rfl⟩ := List.mem_map.1 hn
      have := slots e
      cases h : busy.context e with
      | none => rfl
      | some c => exact List.count_eq_zero.2 fun hi => hb (by rw [h] at this; exact this b hi)
    have noChain : ((List.finRange 96).map fun d => (busy.desc d).chain.count b).sum = 0 := by
      refine List.sum_eq_zero fun n hn => ?_
      obtain ⟨d, -, rfl⟩ := List.mem_map.1 hn
      exact List.count_eq_zero.2 fun hi => hb (chains d b hi)
    rw [placesOf, free, once, noSlot, noChain]

theorem busy_quiet : QuietWhileInitialising busy := by
  constructor <;> intro h <;> exact absurd h (by decide)

theorem witness_EveryStepKeepsTheBlocksAccounted :
    HoldersSound busy ∧ QuietWhileInitialising busy ∧ BlocksAccounted busy ∧ step busy = .next (clockPeriod busy) := by
  refine ⟨busy_holders, busy_quiet, ⟨fun _ => busy_blocks, fun h => absurd h (by decide), fun e c n b hc hb => ?_,
    fun h => absurd h (by decide), by decide +kernel⟩, busy_steps⟩
  obtain ⟨-, rfl⟩ := busy_context hc
  have only : ∀ n, (oneContext.slots.look n).isSome = true → oneContext.received.look n = true := by decide
  exact only n (by simp [hb])

theorem reset_twice (s : State) : deviceReset true s = deviceReset true (deviceReset true s) := rfl

/-- The part held in reset, where a reference period passes. -/
theorem witness_EveryStepKeepsResetAndInitialisationQuiet :
    let s := deviceReset true base
    HeldInReset s ∧ QuietWhileInitialising s ∧ step s = .next (clockPeriod s) ∧ s.host.resetLow = true ∧
      s.host.device = .initialising :=
  ⟨fun _ => reset_twice base,
    ⟨fun _ => by decide +kernel, fun _ => by decide +kernel, fun _ => by decide +kernel, fun _ => by decide +kernel, fun _ => rfl,
      fun _ => rfl, fun _ => rfl, fun _ => ⟨rfl, rfl, rfl⟩⟩, rfl, rfl, rfl⟩

end Sys2Proof.Tests
end

section
/-! PROOFS. What the operations of the part can do to its settings, its time base, its deadlines, its bounded queues and
the memory of the pool, said once as the relation `Evolves`, and how it follows for a replaced part of the state. -/

namespace Sys2Proof.Steps

open Sys2Proof.Machine Sys2Proof.Safety Sys2Proof.Statement

/-! ### The relation, owner by owner -/

/-- A link port keeps its settings, and its control queue and counters stay within their bounds (R96, R174). -/
structure PortEvolves (p q : LinkPort) : Prop where
  stationAddress : q.stationAddress = p.stationAddress
  lineRate : q.lineRate = p.lineRate
  control : p.controlQueue.length ≤ 8 → q.controlQueue.length ≤ 8
  counters : CountersBounded p.counters → CountersBounded q.counters

/-- The scheduler of a link keeps its settings. -/
structure SchedulerEvolves (x y : Scheduler) : Prop where
  outstandingLimit : y.outstandingLimit = x.outstandingLimit
  attemptLimit : y.attemptLimit = x.attemptLimit
  ackWait : y.ackWait = x.ackWait
  refuseBackoff : y.refuseBackoff = x.refuseBackoff

/-- The arbiter keeps its settings. -/
structure ArbiterEvolves (x y : Arbiter) : Prop where
  linkWeight : y.linkWeight = x.linkWeight
  noticeWeight : y.noticeWeight = x.noticeWeight
  threshold : y.threshold = x.threshold

/-- The pool keeps its settings, and its memory stays in canonical form. -/
structure PoolEvolves (p q : Pool) : Prop where
  reserve : q.reserve = p.reserve
  ceiling : q.ceiling = p.ceiling
  memory : Memory.wf p.blocks → Memory.wf q.blocks

/-- The time base keeps its settings and stays within the present interval and tick. -/
structure TimeEvolves (x y : TimeBase) : Prop where
  prescale : y.prescale = x.prescale
  ageStep : y.ageStep = x.ageStep
  periodCount : y.periodCount = x.periodCount
  intervalLength : y.intervalLength = x.intervalLength
  tickCounter : y.tickCounter = x.tickCounter

/-- The notice queue stays within its bounds (R168, R171). -/
structure NoticesEvolve (q r : NoticeQueue) : Prop where
  records : q.records.length ≤ 32 → r.records.length ≤ 32
  overflow : q.overflow ≤ 255 → r.overflow ≤ 255

/-- The message waits for an acknowledgement or out a backoff, with a deadline (R156, R157). -/
def Waiting (x : Descriptor) : Prop := x.state = .awaitAck ∨ x.state = .backoff

/-- The tick is a deadline that an acknowledgement wait or a refuse backoff armed now has (R27). -/
def FreshWait (s : State) (t : Tick) : Prop :=
  ∃ L, t = s.deadlineAfter (s.sch L).ackWait ∨ t = s.deadlineAfter (s.sch L).refuseBackoff

/-- A descriptor changes in state `s`: its age stays within its bound (R30), and a deadline that it then waits for is
one that it has waited for, or is armed now (R27). -/
structure DescriptorEvolves (s : State) (x y : Descriptor) : Prop where
  age : x.age ≤ 31 → y.age ≤ 31
  deadline : Waiting y → ∀ t, y.deadline = some (.armed t) →
    (Waiting x ∧ x.deadline = some (.armed t)) ∨ FreshWait s t

/-- An entry of the context table changes in state `s`: a context that it then holds has the deadline of the one before,
or one armed now (R27, R72). -/
def EntryEvolves (s : State) (x y : Option Context) : Prop :=
  ∀ c, y = some c → (∃ c', x = some c' ∧ c.deadline = c'.deadline) ∨
    ∃ L, c.deadline = s.deadlineAfter (s.reasm.lifetime.look L)

/-- What every event and every command but a reset, a configuration write and a tick does to the part. -/
structure Evolves (s t : State) : Prop where
  ports : ∀ L, PortEvolves (s.port L) (t.port L)
  sched : ∀ L, SchedulerEvolves (s.sch L) (t.sch L)
  arbiter : ArbiterEvolves s.arbiter t.arbiter
  pool : PoolEvolves s.pool t.pool
  time : TimeEvolves s.time t.time
  notices : NoticesEvolve s.notices t.notices
  device : t.host.device = s.host.device
  resetLow : t.host.resetLow = s.host.resetLow
  quota : t.reasm.quota = s.reasm.quota
  lifetime : t.reasm.lifetime = s.reasm.lifetime
  history : ∀ L, (s.history L).length ≤ 16 → (t.history L).length ≤ 16
  contexts : ∀ e, EntryEvolves s (s.context e) (t.context e)
  descriptors : ∀ d, DescriptorEvolves s (s.desc d) (t.desc d)

/-! ### It is reflexive and transitive -/

theorem PortEvolves.refl (p : LinkPort) : PortEvolves p p := ⟨rfl, rfl, id, id⟩

theorem PortEvolves.trans {p q r : LinkPort} (h : PortEvolves p q) (k : PortEvolves q r) : PortEvolves p r :=
  ⟨k.stationAddress.trans h.stationAddress, k.lineRate.trans h.lineRate, k.control ∘ h.control, k.counters ∘ h.counters⟩

theorem SchedulerEvolves.refl (x : Scheduler) : SchedulerEvolves x x := ⟨rfl, rfl, rfl, rfl⟩

theorem SchedulerEvolves.trans {x y z : Scheduler} (h : SchedulerEvolves x y) (k : SchedulerEvolves y z) :
    SchedulerEvolves x z :=
  ⟨k.outstandingLimit.trans h.outstandingLimit, k.attemptLimit.trans h.attemptLimit, k.ackWait.trans h.ackWait,
    k.refuseBackoff.trans h.refuseBackoff⟩

theorem ArbiterEvolves.refl (x : Arbiter) : ArbiterEvolves x x := ⟨rfl, rfl, rfl⟩

theorem ArbiterEvolves.trans {x y z : Arbiter} (h : ArbiterEvolves x y) (k : ArbiterEvolves y z) : ArbiterEvolves x z :=
  ⟨k.linkWeight.trans h.linkWeight, k.noticeWeight.trans h.noticeWeight, k.threshold.trans h.threshold⟩

theorem PoolEvolves.refl (p : Pool) : PoolEvolves p p := ⟨rfl, rfl, id⟩

theorem PoolEvolves.trans {p q r : Pool} (h : PoolEvolves p q) (k : PoolEvolves q r) : PoolEvolves p r :=
  ⟨k.reserve.trans h.reserve, k.ceiling.trans h.ceiling, k.memory ∘ h.memory⟩

theorem TimeEvolves.refl (x : TimeBase) : TimeEvolves x x := ⟨rfl, rfl, rfl, rfl, rfl⟩

theorem TimeEvolves.trans {x y z : TimeBase} (h : TimeEvolves x y) (k : TimeEvolves y z) : TimeEvolves x z :=
  ⟨k.prescale.trans h.prescale, k.ageStep.trans h.ageStep, k.periodCount.trans h.periodCount,
    k.intervalLength.trans h.intervalLength, k.tickCounter.trans h.tickCounter⟩

theorem NoticesEvolve.refl (q : NoticeQueue) : NoticesEvolve q q := ⟨id, id⟩

theorem NoticesEvolve.trans {q r u : NoticeQueue} (h : NoticesEvolve q r) (k : NoticesEvolve r u) : NoticesEvolve q u :=
  ⟨k.records ∘ h.records, k.overflow ∘ h.overflow⟩

theorem DescriptorEvolves.refl (s : State) (x : Descriptor) : DescriptorEvolves s x x :=
  ⟨id, fun hw _ ht => .inl ⟨hw, ht⟩⟩

theorem EntryEvolves.refl (s : State) (x : Option Context) : EntryEvolves s x x := fun c h => .inl ⟨c, h, rfl⟩

theorem Evolves.refl (s : State) : Evolves s s where
  ports _ := .refl _
  sched _ := .refl _
  arbiter := .refl _
  pool := .refl _
  time := .refl _
  notices := .refl _
  device := rfl
  resetLow := rfl
  quota := rfl
  lifetime := rfl
  history _ := id
  contexts _ := .refl s _
  descriptors _ := .refl s _

/-- The tick counter stands still. -/
theorem Evolves.now {s t : State} (h : Evolves s t) : t.now = s.now := h.time.tickCounter

/-- The same number of ticks gives the same deadline before and after. -/
theorem Evolves.deadlineAfter {s t : State} (h : Evolves s t) (n : Nat) : t.deadlineAfter n = s.deadlineAfter n := by
  rw [State.deadlineAfter, h.now, State.deadlineAfter]

/-- A deadline armed after the change could have been armed before it. -/
theorem Evolves.freshWait {s t : State} (h : Evolves s t) {w : Tick} (hw : FreshWait t w) : FreshWait s w := by
  obtain ⟨L, hL⟩ := hw
  refine ⟨L, ?_⟩
  rwa [h.deadlineAfter, h.deadlineAfter, (h.sched L).ackWait, (h.sched L).refuseBackoff] at hL

theorem Evolves.trans {s t u : State} (h : Evolves s t) (k : Evolves t u) : Evolves s u where
  ports L := (h.ports L).trans (k.ports L)
  sched L := (h.sched L).trans (k.sched L)
  arbiter := h.arbiter.trans k.arbiter
  pool := h.pool.trans k.pool
  time := h.time.trans k.time
  notices := h.notices.trans k.notices
  device := k.device.trans h.device
  resetLow := k.resetLow.trans h.resetLow
  quota := k.quota.trans h.quota
  lifetime := k.lifetime.trans h.lifetime
  history L := k.history L ∘ h.history L
  contexts e c hc := by
    obtain ⟨c', hc', hd⟩ | ⟨L, hL⟩ := k.contexts e c hc
    · rw [hd]; exact h.contexts e c' hc'
    · exact .inr ⟨L, by rw [hL, h.deadlineAfter, h.lifetime]⟩
  descriptors d :=
    { age := (k.descriptors d).age ∘ (h.descriptors d).age
      deadline := fun hw w hd => by
        obtain ⟨hw', hd'⟩ | hf := (k.descriptors d).deadline hw w hd
        · exact (h.descriptors d).deadline hw' w hd'
        · exact .inr (h.freshWait hf) }

/-- The same, last change first: a proof that reads a composed state from the outside in. -/
theorem Evolves.after {s t u : State} (k : Evolves t u) (h : Evolves s t) : Evolves s u := h.trans k

/-! ### Replacing one part of the state -/

theorem setPort_evolves {L : Link} {p : LinkPort} {s : State} (h : PortEvolves (s.port L) p) :
    Evolves s (s.setPort L p) :=
  { Evolves.refl s with
    ports := fun M => by
      rw [State.setPort_port]
      split
      · next hM => rwa [hM]
      · exact .refl _ }

theorem setSch_evolves {L : Link} {x : Scheduler} {s : State} (h : SchedulerEvolves (s.sch L) x) :
    Evolves s (s.setSch L x) :=
  { Evolves.refl s with
    sched := fun M => by
      rw [State.setSch_sch]
      split
      · next hM => rwa [hM]
      · exact .refl _ }

theorem setDesc_evolves {d : DescNo} {x : Descriptor} {s : State} (h : DescriptorEvolves s (s.desc d) x) :
    Evolves s (s.setDesc d x) :=
  { Evolves.refl s with
    descriptors := fun i => by
      rw [State.setDesc_desc]
      split
      · next hi => rwa [hi]
      · exact .refl s _ }

theorem mapAll_evolves {f : Descriptor → Descriptor} {s : State} (h : ∀ x, DescriptorEvolves s x (f x)) :
    Evolves s { s with table := { s.table with descriptors := s.table.descriptors.mapAll f } } :=
  { Evolves.refl s with
    descriptors := fun d => by
      simp only [State.desc, Table.look_mapAll]
      exact h _ }

theorem setReady_evolves (L : Link) (q : List DescNo) (s : State) : Evolves s (s.setReady L q) :=
  { Evolves.refl s with }

theorem setContext_evolves {e : EntryNo} {c : Option Context} {s : State} (h : EntryEvolves s (s.context e) c) :
    Evolves s (s.setContext e c) :=
  { Evolves.refl s with
    contexts := fun i => by
      rw [State.setContext_context]
      split
      · next hi => rwa [hi]
      · exact .refl s _ }

theorem setHistory_evolves {L : Link} {h : List Key} {s : State} (hh : (s.history L).length ≤ 16 → h.length ≤ 16) :
    Evolves s (s.setHistory L h) :=
  { Evolves.refl s with
    history := fun M => by
      rw [State.setHistory_history]
      split
      · next hM => rwa [hM]
      · exact id }

theorem pool_evolves {p : Pool} {s : State} (h : PoolEvolves s.pool p) : Evolves s { s with pool := p } :=
  { Evolves.refl s with pool := h }

theorem time_evolves {x : TimeBase} {s : State} (h : TimeEvolves s.time x) : Evolves s { s with time := x } :=
  { Evolves.refl s with
    time := h
    contexts := fun _ => .refl s _
    descriptors := fun _ => .refl s _ }

theorem notices_evolve {q : NoticeQueue} {s : State} (h : NoticesEvolve s.notices q) :
    Evolves s { s with notices := q } :=
  { Evolves.refl s with notices := h }

theorem arbiter_evolves {x : Arbiter} {s : State} (h : ArbiterEvolves s.arbiter x) :
    Evolves s { s with arbiter := x } :=
  { Evolves.refl s with arbiter := h }

theorem compose_evolves (x : Compose) (s : State) : Evolves s { s with compose := x } := { Evolves.refl s with }

theorem host_evolves {x : HostPort} {s : State} (hd : x.device = s.host.device) (hr : x.resetLow = s.host.resetLow) :
    Evolves s { s with host := x } :=
  { Evolves.refl s with device := hd, resetLow := hr }

theorem inputs_evolve (i : Inputs) (s : State) : Evolves s { s with inputs := i } := { Evolves.refl s with }

theorem pending_evolves (q : List Instr) (s : State) : Evolves s { s with pending := q } := { Evolves.refl s with }

/-! ### Replacing a record -/

/-- A port but for its settings, its control queue and its counters. -/
theorem setPort_evolves_of_same {L : Link} {p : LinkPort} {s : State}
    (h : p.stationAddress = (s.port L).stationAddress ∧ p.lineRate = (s.port L).lineRate ∧
      p.controlQueue = (s.port L).controlQueue ∧ p.counters = (s.port L).counters) : Evolves s (s.setPort L p) := by
  obtain ⟨ha, hl, hq, hc⟩ := h
  exact setPort_evolves ⟨ha, hl, by rw [hq]; exact id, by rw [hc]; exact id⟩

/-- A descriptor that then waits for nothing. -/
theorem DescriptorEvolves.of_not_waiting {s : State} {x y : Descriptor} (ha : x.age ≤ 31 → y.age ≤ 31)
    (hw : y.state ≠ .awaitAck ∧ y.state ≠ .backoff) : DescriptorEvolves s x y :=
  ⟨ha, fun h => (h.elim hw.1 hw.2).elim⟩

/-- A descriptor that keeps its state and its deadline. -/
theorem DescriptorEvolves.of_same_wait {s : State} {x y : Descriptor} (ha : x.age ≤ 31 → y.age ≤ 31)
    (hs : y.state = x.state) (hd : y.deadline = x.deadline) : DescriptorEvolves s x y :=
  ⟨ha, fun hw _ ht => .inl ⟨by rwa [Waiting, ← hs], by rwa [← hd]⟩⟩

/-- A descriptor whose deadline is armed now. -/
theorem DescriptorEvolves.of_armed {s : State} {x y : Descriptor} {t : Tick} (ha : x.age ≤ 31 → y.age ≤ 31)
    (hd : y.deadline = some (.armed t)) (ht : FreshWait s t) : DescriptorEvolves s x y :=
  ⟨ha, fun _ w hw => .inr (by rw [hd] at hw; cases hw; exact ht)⟩

theorem DescriptorEvolves.cleared (s : State) (x : Descriptor) : DescriptorEvolves s x .cleared :=
  .of_not_waiting (fun _ => by decide) ⟨by decide, by decide⟩

theorem EntryEvolves.none (s : State) (x : Option Context) : EntryEvolves s x none := fun _ h => nomatch h

end Sys2Proof.Steps
end

section
/-! PROOFS. The shared operations, the reassembly unit and the outbound scheduler evolve the part. -/

namespace Sys2Proof.Steps

open Sys2Proof.Machine Sys2Proof.Safety Sys2Proof.Statement

/-! ### Shared operations -/

theorem bump_bounded (c : CounterName) {k : Counters} (h : CountersBounded k) : CountersBounded (k.bump c) := by
  obtain ⟨h₁, h₂, h₃, h₄, h₅, h₆, h₇, h₈⟩ := h
  cases c <;> constructor <;> first | assumption | exact saturate_le _

theorem count_evolves (L : Link) (c : CounterName) (s : State) : Evolves s (count L c s) :=
  setPort_evolves ⟨rfl, rfl, id, bump_bounded c⟩

theorem setLoss_evolves (L : Link) (s : State) : Evolves s (setLoss L s) :=
  setPort_evolves_of_same ⟨rfl, rfl, rfl, rfl⟩

theorem joinRequest_evolves (L : Link) (r : Request) (s : State) : Evolves s (joinRequest L r s) := by
  unfold joinRequest
  split
  · next h => exact setPort_evolves ⟨rfl, rfl, fun _ => by simpa using h, id⟩
  · exact count_evolves L _ s

theorem recordNotice_evolves (n : Notice) (s : State) : Evolves s (recordNotice n s) := by
  rw [recordNotice_eq, recordNotice_notices]
  refine notices_evolve ?_
  split
  · next h => exact ⟨fun _ => by simpa using h, id⟩
  · exact ⟨id, fun _ => Nat.min_le_left ..⟩

theorem returnBlocks_evolves (bs : List BlockNo) (s : State) : Evolves s (returnBlocks bs s) :=
  pool_evolves ⟨rfl, rfl, id⟩

theorem freeDescriptor_evolves (d : DescNo) (s : State) : Evolves s (freeDescriptor d s) :=
  setDesc_evolves (.cleared s _)

theorem freeMessage_evolves (d : DescNo) (s : State) : Evolves s (freeMessage d s) :=
  (returnBlocks_evolves _ s).trans (freeDescriptor_evolves d _)

theorem freeMessages_evolve (ds : List DescNo) (s : State) : Evolves s (freeMessages ds s) := by
  induction ds generalizing s with
  | nil => exact .refl s
  | cons d ds ih => exact (freeMessage_evolves d s).trans (ih _)

theorem abandonContext_evolves (e : EntryNo) (s : State) : Evolves s (abandonContext e s) := by
  cases hc : s.context e with
  | none => rw [abandonContext_of_none hc]; exact .refl s
  | some c =>
    rw [abandonContext_eq hc]
    exact (returnBlocks_evolves _ s).trans ((setDesc_evolves (.cleared _ _)).trans (setContext_evolves (.none _ _)))

theorem abandonContexts_evolve (es : List EntryNo) (s : State) : Evolves s (abandonContexts es s) := by
  induction es generalizing s with
  | nil => exact .refl s
  | cons e es ih => exact (abandonContext_evolves e s).trans (ih _)

theorem grantBlock_evolves {s t : State} {b : BlockNo} (h : grantBlock s = some (b, t)) : Evolves s t := by
  obtain ⟨_, -, rfl⟩ := grantBlock_eq_some.1 h
  exact pool_evolves ⟨rfl, rfl, id⟩

theorem storePayload_evolves (b : BlockNo) (payload : List Byte) (s : State) : Evolves s (storePayload b payload s) :=
  pool_evolves ⟨rfl, rfl, fun h => Memory.writeBytes_wf h _ _⟩

theorem appendByte_evolves (b : BlockNo) (v : Byte) (s : State) : Evolves s (appendByte b v s) :=
  pool_evolves ⟨rfl, rfl, fun h => Memory.write_wf h _ _⟩

theorem claimDescriptor_evolves {x : Descriptor} {s t : State} {d : DescNo} (h : claimDescriptor x s = some (d, t))
    (ha : x.age ≤ 31) (hw : x.state ≠ .awaitAck ∧ x.state ≠ .backoff) : Evolves s t := by
  obtain ⟨-, rfl⟩ := claimDescriptor_eq_some.1 h
  exact setDesc_evolves (.of_not_waiting (fun _ => ha) hw)

/-! ### The reassembly unit -/

theorem clearHandedOver_evolves (L : Link) (s : State) : Evolves s (clearHandedOver L s) :=
  setPort_evolves_of_same ⟨rfl, rfl, rfl, rfl⟩

theorem answerFragment_evolves (L : Link) (f : Fragment) (k : RequestKind) (s : State) :
    Evolves s (answerFragment L f k s) := by
  unfold answerFragment
  split
  · exact joinRequest_evolves L _ s
  · exact .refl s

theorem dropNoContext_evolves (L : Link) (f : Fragment) (s : State) : Evolves s (dropNoContext L f s) :=
  (count_evolves L _ s).trans ((setLoss_evolves L _).trans (answerFragment_evolves L f _ _))

theorem dropNoBlock_evolves (L : Link) (f : Fragment) (s : State) : Evolves s (dropNoBlock L f s) :=
  (count_evolves L _ s).trans ((setLoss_evolves L _).trans (answerFragment_evolves L f _ _))

theorem appendKey_length_le (k : Key) {h : List Key} (hh : h.length ≤ 16) : (appendKey k h).length ≤ 16 := by
  unfold appendKey Config.historyCapacity
  split
  · simp; omega
  · simp; omega

/-- The deadline of the context completed plays no part: its entry becomes FREE. -/
theorem completeContext_evolves (e : EntryNo) (c : Context) (s : State) : Evolves s (completeContext e c s) := by
  have completed : Evolves s (s.setDesc c.descriptor (completedDescriptor c s)) :=
    setDesc_evolves (.of_not_waiting (fun _ => Nat.zero_le _) ⟨nofun, nofun⟩)
  have closed (t : State) (q : List DescNo) (k : Key) : Evolves t
      (((t.setReady c.link q).setContext e none).setHistory c.link (appendKey k (t.history c.link))) :=
    (setReady_evolves c.link q t).trans
      ((setContext_evolves (.none _ _)).trans (setHistory_evolves (appendKey_length_le k)))
  simp only [completeContext]
  split
  · exact completed.trans (closed ..)
  · exact (completed.trans (closed ..)).trans (joinRequest_evolves ..)

/-- A fragment stored leaves its context with its deadline, or completes it. -/
theorem storeFragment_evolves {e : EntryNo} {c : Context} {s : State}
    (h : EntryEvolves s (s.context e) (some c)) (f : Fragment) (b : Option BlockNo) :
    Evolves s (storeFragment e c f b s) := by
  have held : ∀ t, Evolves s t → t.context e = s.context e →
      EntryEvolves t (t.context e) (some (contextWith c f b)) := by
    rintro t ht he _ ⟨⟩
    obtain hc | ⟨L, hL⟩ := h c rfl
    · exact .inl (by rwa [he])
    · exact .inr ⟨L, by rw [ht.deadlineAfter, ht.lifetime]; exact hL⟩
  have whole : ∀ t, Evolves s t → t.context e = s.context e → Evolves s
      (if contextWhole (contextWith c f b) then
        completeContext e (contextWith c f b) (t.setContext e (some (contextWith c f b)))
      else t.setContext e (some (contextWith c f b))) := by
    intro t ht he
    split
    · exact (ht.trans (setContext_evolves (held t ht he))).trans (completeContext_evolves ..)
    · exact ht.trans (setContext_evolves (held t ht he))
  cases b with
  | none => exact whole s (.refl s) rfl
  | some b => exact whole _ (storePayload_evolves b f.payload s) rfl

theorem storeFragment_newContext_evolves (L : Link) (e : EntryNo) (f : Fragment) (d : DescNo) (b : Option BlockNo)
    (s : State) : Evolves s (storeFragment e (newContext L f d s) f b s) :=
  storeFragment_evolves (fun _ h => .inr ⟨L, by cases h; rfl⟩) f b

theorem createContext_evolves (L : Link) (f : Fragment) (s : State) : Evolves s (createContext L f s) := by
  unfold createContext
  split
  · exact dropNoContext_evolves L f s
  · split
    · split
      · exact dropNoContext_evolves L f s
      · next h =>
        refine (claimDescriptor_evolves h (Nat.zero_le _) ⟨nofun, nofun⟩).trans ?_
        split
        · exact storeFragment_newContext_evolves ..
        · split
          · exact (freeDescriptor_evolves _ _).trans (dropNoBlock_evolves L f _)
          · next hb =>
            exact (grantBlock_evolves (reassemblyClaim_eq_some.1 hb).2.2).trans (storeFragment_newContext_evolves ..)
    · exact dropNoContext_evolves L f s

theorem continueContext_evolves {L : Link} {e : EntryNo} {c : Context} {s : State} (h : s.context e = some c)
    (f : Fragment) : Evolves s (continueContext L e c f s) := by
  have held : EntryEvolves s (s.context e) (some c) := by rw [h]; exact .refl s _
  unfold continueContext
  split
  · exact count_evolves L _ s
  · split
    · exact (abandonContext_evolves e s).trans (recordNotice_evolves _ _)
    · split
      · exact storeFragment_evolves held f _
      · split
        · exact dropNoBlock_evolves L f s
        · next hb =>
          have granted := (reassemblyClaim_eq_some.1 hb).2.2
          refine (grantBlock_evolves granted).trans (storeFragment_evolves ?_ f _)
          obtain ⟨_, -, rfl⟩ := grantBlock_eq_some.1 granted
          exact held

theorem takeFragment_evolves (L : Link) (f : Fragment) (s : State) : Evolves s (takeFragment L f s) := by
  unfold takeFragment
  split
  · exact (count_evolves L _ s).trans (answerFragment_evolves L f _ _)
  · split
    · exact createContext_evolves L f s
    · split
      · next hc => exact continueContext_evolves hc f
      · exact .refl s

theorem takeHandedFragment_evolves (L : Link) (s : State) : Evolves s (takeHandedFragment L s) := by
  unfold takeHandedFragment
  split
  · split
    · exact (clearHandedOver_evolves L s).trans (takeFragment_evolves L _ _)
    · exact .refl s
  · exact .refl s

theorem lifetimeExpiry_evolves (e : EntryNo) (s : State) : Evolves s (lifetimeExpiry e s) := by
  obtain h | ⟨c, -, -, h⟩ := lifetimeExpiry_eq e s <;> rw [h]
  · exact .refl s
  · exact (abandonContext_evolves e s).trans (recordNotice_evolves _ _)

/-! ### The outbound scheduler -/

theorem leaveScheduler_evolves (L : Link) (d : DescNo) (s : State) : Evolves s (leaveScheduler L d s) :=
  setSch_evolves ⟨rfl, rfl, rfl, rfl⟩

theorem endOutbound_evolves (L : Link) (d : DescNo) (s : State) : Evolves s (endOutbound L d s) :=
  (leaveScheduler_evolves L d s).trans (freeMessage_evolves d _)

theorem finishDone_evolves (L : Link) (d : DescNo) (s : State) : Evolves s (finishDone L d s) := by
  unfold finishDone
  split
  · exact (recordNotice_evolves _ s).trans (endOutbound_evolves L d _)
  · exact endOutbound_evolves L d s

theorem finishFailed_evolves (L : Link) (d : DescNo) (r : FailReason) (s : State) : Evolves s (finishFailed L d r s) :=
  (recordNotice_evolves _ s).trans (endOutbound_evolves L d _)

theorem takeHandedAck_evolves (L : Link) (s : State) : Evolves s (takeHandedAck L s) := by
  unfold takeHandedAck takeAck
  split
  · refine (clearHandedOver_evolves L s).trans ?_
    split
    · exact finishDone_evolves L _ _
    · exact count_evolves L _ _
  · exact .refl s

/-- A descriptor and the scheduler of a link change together. -/
theorem setDesc_setSch_evolves {L : Link} {d : DescNo} {x : Descriptor} {y : Scheduler} {s : State}
    (hd : DescriptorEvolves s (s.desc d) x) (hs : SchedulerEvolves (s.sch L) y) :
    Evolves s ((s.setDesc d x).setSch L y) :=
  (setDesc_evolves hd).trans (setSch_evolves hs)

theorem enterBackoff_evolves (L : Link) (d : DescNo) (s : State) : Evolves s (enterBackoff L d s) :=
  setDesc_setSch_evolves (.of_armed id rfl ⟨L, .inr rfl⟩) ⟨rfl, rfl, rfl, rfl⟩

theorem enterResend_evolves (L : Link) (d : DescNo) (s : State) : Evolves s (enterResend L d s) :=
  setDesc_setSch_evolves (.of_not_waiting id ⟨nofun, nofun⟩) ⟨rfl, rfl, rfl, rfl⟩

theorem takeHandedRefuse_evolves (L : Link) (s : State) : Evolves s (takeHandedRefuse L s) := by
  unfold takeHandedRefuse takeRefuse
  split
  · refine (clearHandedOver_evolves L s).trans ?_
    split
    · split
      · split
        · exact enterBackoff_evolves L _ _
        · exact finishFailed_evolves L _ _ _
      · exact count_evolves L _ _
    · exact count_evolves L _ _
  · exact .refl s

theorem takeHandedOver_evolves (L : Link) (s : State) : Evolves s (takeHandedOver L s) :=
  (takeHandedFragment_evolves L s).trans ((takeHandedAck_evolves L _).trans (takeHandedRefuse_evolves L _))

theorem ackWaitExpiry_evolves (d : DescNo) (s : State) : Evolves s (ackWaitExpiry d s) := by
  obtain h | ⟨-, -, h⟩ := ackWaitExpiry_eq d s <;> rw [h]
  · exact .refl s
  · simp only [expireWait]
    split
    · exact enterResend_evolves _ d s
    · exact finishFailed_evolves _ d _ s

theorem backoffExpiry_evolves (d : DescNo) (s : State) : Evolves s (backoffExpiry d s) := by
  obtain h | ⟨-, -, h⟩ := backoffExpiry_eq d s <;> rw [h]
  · exact .refl s
  · exact enterResend_evolves _ d s

theorem takeExpiries_evolve (s : State) : Evolves s (takeExpiries s) :=
  takeExpiries_induction (P := Evolves s) (.refl s) (fun e _ h => h.trans (lifetimeExpiry_evolves e _))
    (fun d _ h => h.trans (ackWaitExpiry_evolves d _)) fun d _ h => h.trans (backoffExpiry_evolves d _)

theorem beginResend_evolves (L : Link) (d : DescNo) (s : State) : Evolves s (beginResend L d s) :=
  setDesc_setSch_evolves (.of_not_waiting id ⟨nofun, nofun⟩) ⟨rfl, rfl, rfl, rfl⟩

theorem beginQueued_evolves (L : Link) (d : DescNo) (s : State) : Evolves s (beginQueued L d s) :=
  setDesc_setSch_evolves (.of_not_waiting id ⟨nofun, nofun⟩) ⟨rfl, rfl, rfl, rfl⟩

theorem takeOffer_evolves (L : Link) (o : Offer) (s : State) : Evolves s (takeOffer L o s) := by
  have line (d : DescNo) (n : Nat) (t : State) : Evolves t (setLine L d n t) := setSch_evolves ⟨rfl, rfl, rfl, rfl⟩
  cases o with
  | sending d => exact line ..
  | resend d => exact (beginResend_evolves L d s).trans (line ..)
  | queued d => exact (beginQueued_evolves L d s).trans (line ..)

theorem fragmentSent_evolves (L : Link) (d : DescNo) (n : Nat) (s : State) : Evolves s (fragmentSent L d n s) := by
  unfold fragmentSent
  split
  · exact setDesc_evolves (.of_same_wait id rfl rfl)
  · split
    · exact finishDone_evolves L d s
    · exact setDesc_evolves (.of_armed id rfl ⟨L, .inl rfl⟩)

theorem reportFrameEnd_evolves (L : Link) (s : State) : Evolves s (reportFrameEnd L s) := by
  have clear (t : State) : Evolves t (clearLine L t) := setSch_evolves ⟨rfl, rfl, rfl, rfl⟩
  unfold reportFrameEnd
  split
  · refine .trans ?_ (clear _)
    split
    · exact fragmentSent_evolves L _ _ s
    · exact .refl s
  · exact clear s

theorem stopSending_evolves (L : Link) (s : State) : Evolves s (stopSending L s) := by
  unfold stopSending
  split
  · split
    · exact enterResend_evolves L _ s
    · exact finishFailed_evolves L _ _ s
  · exact .refl s

/-- A suspended deadline is no armed one. -/
theorem suspendDeadlines_evolves (L : Link) (s : State) : Evolves s (suspendDeadlines L s) := by
  refine mapAll_evolves fun x => ?_
  unfold suspendedDescriptor
  split
  · refine ⟨id, fun _ t ht => ?_⟩
    obtain ⟨y, -, hy⟩ := Option.map_eq_some_iff.1 ht
    cases y <;> simp at hy
  · exact .refl s x

theorem rearmDeadlines_evolves (L : Link) (s : State) : Evolves s (rearmDeadlines L s) := by
  refine mapAll_evolves fun x => ?_
  unfold rearmedDescriptor
  split
  · exact .of_armed id rfl ⟨L, .inl rfl⟩
  · split
    · exact .of_armed id rfl ⟨L, .inr rfl⟩
    · exact .refl s x

end Sys2Proof.Steps
end

section
/-! PROOFS. The links, the compose unit, the service context and the host port evolve the part. -/

namespace Sys2Proof.Steps

open Sys2Proof.Machine Sys2Proof.Safety Sys2Proof.Statement

/-! ### Transmitters -/

theorem beginFrame_evolves (L : Link) (f : Frame) (s : State) : Evolves s (beginFrame L f s) :=
  setPort_evolves_of_same ⟨rfl, rfl, rfl, rfl⟩

/-- A control request that leaves makes its queue shorter. -/
theorem startControl_evolves {L : Link} {r : Request} {rest : List Request} {s : State}
    (h : (s.port L).controlQueue = r :: rest) : Evolves s (startControl L r rest s) :=
  (beginFrame_evolves L _ _).after
    (setPort_evolves ⟨rfl, rfl, fun hq => by rw [h] at hq; exact Nat.le_of_succ_le hq, id⟩)

theorem takeFrameStart_evolves (L : Link) (s : State) : Evolves s (takeFrameStart L s) := by
  unfold takeFrameStart startFrame
  split
  · split
    · next h => exact startControl_evolves h
    · split
      · exact (takeOffer_evolves L _ s).trans (beginFrame_evolves L _ _)
      · exact .refl s
  · exact .refl s

theorem enterOff_evolves (L : Link) (s : State) : Evolves s (enterOff L s) := by
  have off (t : State) : Evolves t (t.setPort L { t.port L with state := .off, controlQueue := [] }) :=
    setPort_evolves ⟨rfl, rfl, fun _ => Nat.zero_le _, id⟩
  exact (abandonContexts_evolve _ s).trans ((off _).trans ((stopSending_evolves L _).trans
    ((suspendDeadlines_evolves L _).trans (recordNotice_evolves _ _))))

theorem endFrame_evolves (L : Link) (s : State) : Evolves s (endFrame L s) := by
  have gap : Evolves s (enterGap L s) := setPort_evolves_of_same ⟨rfl, rfl, rfl, rfl⟩
  simp only [endFrame]
  split
  · exact (gap.trans (reportFrameEnd_evolves L _)).trans (enterOff_evolves L _)
  · exact gap.trans (reportFrameEnd_evolves L _)

theorem measureGap_evolves (L : Link) (s : State) : Evolves s (s.setPort L (measureGap (s.port L))) := by
  unfold measureGap
  split <;> exact setPort_evolves_of_same ⟨rfl, rfl, rfl, rfl⟩

theorem transmitterPeriod_evolves (L : Link) (s : State) : Evolves s (transmitterPeriod L s) := by
  unfold transmitterPeriod
  split
  · unfold sendPeriod
    split
    · exact setPort_evolves_of_same ⟨rfl, rfl, rfl, rfl⟩
    · exact endFrame_evolves L s
  · exact measureGap_evolves L s
  · exact takeFrameStart_evolves L s

/-! ### Receivers -/

theorem setReceiver_evolves (L : Link) (r : ReceiverState) (buf : List Byte) (s : State) :
    Evolves s (setReceiver L r buf s) :=
  setPort_evolves_of_same ⟨rfl, rfl, rfl, rfl⟩

theorem restartGap_evolves (L : Link) (n : Nat) (s : State) : Evolves s (restartGap L n s) :=
  setPort_evolves_of_same ⟨rfl, rfl, rfl, rfl⟩

theorem discardToSettling_evolves (L : Link) (s : State) : Evolves s (discardToSettling L s) :=
  (setReceiver_evolves L _ _ s).trans ((restartGap_evolves L _ _).trans (count_evolves L _ _))

theorem discardOversized_evolves (L : Link) (s : State) : Evolves s (discardOversized L s) := by
  unfold discardOversized
  split
  · exact discardToSettling_evolves L s
  · exact .refl s

theorem completeFrame_evolves (L : Link) (s : State) : Evolves s (completeFrame L s) := by
  unfold completeFrame
  split
  · exact (setReceiver_evolves L _ _ s).trans (count_evolves L _ _)
  · exact (setReceiver_evolves L _ _ s).trans (count_evolves L _ _)
  · exact setReceiver_evolves L _ _ s
  · exact setPort_evolves_of_same ⟨rfl, rfl, rfl, rfl⟩

theorem finishFrame_evolves (L : Link) (s : State) : Evolves s (finishFrame L s) := by
  unfold finishFrame
  split
  · exact (takeHandedOver_evolves L s).trans (completeFrame_evolves L _)
  · exact .refl s

theorem concludeFrame_evolves (L : Link) (s : State) : Evolves s (concludeFrame L s) :=
  (finishFrame_evolves L s).trans (discardOversized_evolves L _)

theorem hearCharacter_evolves (L : Link) (b : Byte) (s : State) : Evolves s (hearCharacter L b s) := by
  have frame (buf : List Byte) :
      Evolves s (restartGap L Config.gapSamplesAfterStop (setReceiver L .frame buf s)) :=
    (setReceiver_evolves L _ _ s).trans (restartGap_evolves L _ _)
  unfold hearCharacter
  split
  · exact .refl s
  · exact restartGap_evolves L _ s
  · split
    · exact frame _
    · exact .refl s
  · exact frame _

theorem receiveCharacter_evolves (L : Link) (b : Byte) (s : State) : Evolves s (receiveCharacter L b s) :=
  (concludeFrame_evolves L s).trans (hearCharacter_evolves L b _)

theorem hearError_evolves (L : Link) (s : State) : Evolves s (hearError L s) := by
  unfold hearError
  split
  · exact discardToSettling_evolves L s
  · exact restartGap_evolves L _ s
  · exact .refl s
  · exact .refl s

theorem receiveError_evolves (L : Link) (s : State) : Evolves s (receiveError L s) :=
  (concludeFrame_evolves L s).trans (hearError_evolves L _)

theorem endSettling_evolves (L : Link) (s : State) : Evolves s (endSettling L s) := by
  unfold endSettling
  split
  · exact setReceiver_evolves L _ _ s
  · exact .refl s

theorem truncateFrame_evolves (L : Link) (s : State) : Evolves s (truncateFrame L s) := by
  unfold truncateFrame
  split
  · exact (setReceiver_evolves L _ _ s).trans (count_evolves L _ _)
  · exact .refl s

theorem countIdle_evolves (L : Link) (s : State) : Evolves s (countIdle L s) := by
  unfold countIdle
  split
  · exact (restartGap_evolves L _ s).trans ((endSettling_evolves L _).trans (truncateFrame_evolves L _))
  · exact restartGap_evolves L _ s

theorem takeLineEvent_evolves (L : Link) (s : State) (e : Option LineEvent) : Evolves s (takeLineEvent L s e) := by
  unfold takeLineEvent
  split
  · exact receiveCharacter_evolves L _ s
  · exact receiveError_evolves L s
  · exact .refl s

theorem sampleReceiver_evolves (L : Link) (v : Level) (s : State) : Evolves s (sampleReceiver L v s) := by
  have sampled (x : Sampler) : Evolves s (s.setPort L { s.port L with sampleCount := 0, sampler := x }) :=
    setPort_evolves_of_same ⟨rfl, rfl, rfl, rfl⟩
  simp only [sampleReceiver]
  refine (concludeFrame_evolves L _).after ?_
  split
  · exact (countIdle_evolves L _).after (sampled _)
  · exact (takeLineEvent_evolves L _ _).after (sampled _)

theorem receiverPeriod_evolves (L : Link) (s : State) : Evolves s (receiverPeriod L s) := by
  unfold receiverPeriod
  split
  · exact setPort_evolves_of_same ⟨rfl, rfl, rfl, rfl⟩
  · exact sampleReceiver_evolves L _ s

theorem handOffPeriod_evolves (L : Link) (s : State) : Evolves s (handOffPeriod L s) := by
  unfold handOffPeriod
  split
  · exact .refl s
  · split
    · exact setPort_evolves_of_same ⟨rfl, rfl, rfl, rfl⟩
    · exact takeHandedOver_evolves L s

theorem linkPeriods_evolve (s : State) : Evolves s (linkPeriods s) := by
  have one (L : Link) (t : State) : Evolves t (linkPeriod L t) :=
    (transmitterPeriod_evolves L t).trans ((handOffPeriod_evolves L _).trans (receiverPeriod_evolves L _))
  exact (one 0 s).trans ((one 1 _).trans ((one 2 _).trans (one 3 _)))

/-! ### Age pulses -/

theorem agePulsePeriod_evolves (s : State) : Evolves s (agePulsePeriod s) := by
  have aged (x : Descriptor) : DescriptorEvolves s x (agedDescriptor x) := by
    unfold agedDescriptor
    split
    · exact .of_same_wait (fun _ => Nat.min_le_left ..) rfl rfl
    · exact .refl s x
  unfold agePulsePeriod
  split
  · exact (mapAll_evolves aged).trans (time_evolves ⟨rfl, rfl, rfl, rfl, rfl⟩)
  · exact .refl s

/-! ### Commands of the command register -/

theorem issueCommand_evolves {code : Byte} {body : State → State × CommandOutcome} {s : State}
    (h : Evolves s (body s).1) : Evolves s (issueCommand code body s) := by
  unfold issueCommand hostWrite
  split
  · exact .refl s
  · dsimp only
    split
    · exact host_evolves rfl rfl
    · exact h.trans (host_evolves rfl rfl)

theorem linkStartBody_evolves (s : State) : Evolves s (linkStartBody s).1 := by
  unfold linkStartBody
  split
  · exact .refl s
  · split
    · split
      · exact .refl s
      · exact (rearmDeadlines_evolves _ _).after (setPort_evolves_of_same ⟨rfl, rfl, rfl, rfl⟩)
    all_goals exact .refl s

theorem stopLink_evolves (L : Link) (s : State) : Evolves s (stopLink L s) := by
  have disabled : Evolves s (disableReceiver L s) := setPort_evolves_of_same ⟨rfl, rfl, rfl, rfl⟩
  have stopping (t : State) : Evolves t (t.setPort L { t.port L with state := .stopping }) :=
    setPort_evolves_of_same ⟨rfl, rfl, rfl, rfl⟩
  simp only [stopLink]
  split
  · exact disabled.trans (stopping _)
  · exact (disabled.trans (stopping _)).trans (enterOff_evolves L _)

theorem linkStopBody_evolves (s : State) : Evolves s (linkStopBody s).1 := by
  unfold linkStopBody
  split
  · exact .refl s
  · split
    · exact stopLink_evolves _ s
    all_goals exact .refl s

theorem countersZero_bounded : CountersBounded .zero := by constructor <;> decide

theorem resetLink_evolves (L : Link) (s : State) : Evolves s (resetLink L s) := by
  have emptied (t : State) : Evolves t (t.setSch L (emptiedScheduler (t.sch L))) := setSch_evolves ⟨rfl, rfl, rfl, rfl⟩
  have port (t : State) : Evolves t (t.setPort L (resetPort (t.port L))) :=
    setPort_evolves ⟨rfl, rfl, fun _ => Nat.zero_le _, fun _ => countersZero_bounded⟩
  exact (abandonContexts_evolve _ s).trans ((setHistory_evolves fun _ => Nat.zero_le _).trans
    ((freeMessages_evolve _ _).trans ((setReady_evolves L [] _).trans ((freeMessages_evolve _ _).trans
      ((freeMessages_evolve _ _).trans ((emptied _).trans ((port _).trans (recordNotice_evolves _ _))))))))

theorem linkResetBody_evolves (s : State) : Evolves s (linkResetBody s).1 := by
  unfold linkResetBody
  split
  · exact .refl s
  · exact resetLink_evolves _ s

theorem countersClearBody_evolves (s : State) : Evolves s (countersClearBody s).1 := by
  unfold countersClearBody
  split
  · exact .refl s
  · exact setPort_evolves ⟨rfl, rfl, id, fun _ => countersZero_bounded⟩

theorem outWithdrawBody_evolves (s : State) : Evolves s (outWithdrawBody s).1 := by
  unfold outWithdrawBody
  split
  · exact .refl s
  · split
    · exact .refl s
    · split
      · exact .refl s
      · exact endOutbound_evolves _ _ s

theorem noticeClearOverflowBody_evolves (s : State) : Evolves s (noticeClearOverflowBody s).1 :=
  notices_evolve ⟨id, fun _ => Nat.zero_le _⟩

theorem clearFlagsBody_evolves (s : State) : Evolves s (clearFlagsBody s).1 :=
  { Evolves.refl s with arbiter := ⟨rfl, rfl, rfl⟩ }

/-! ### The compose unit -/

theorem composeOpenBody_evolves (s : State) : Evolves s (composeOpenBody s).1 := by
  unfold composeOpenBody
  split
  · exact .refl s
  · split
    · exact .refl s
    · split
      · exact .refl s
      · split
        · exact .refl s
        · next h => exact (claimDescriptor_evolves h (Nat.zero_le _) ⟨nofun, nofun⟩).trans (compose_evolves _ _)

theorem composeSubmitBody_evolves (s : State) : Evolves s (composeSubmitBody s).1 := by
  unfold composeSubmitBody
  split
  · exact .refl s
  · exact (compose_evolves _ _).after
      (setDesc_setSch_evolves (.of_not_waiting id ⟨nofun, nofun⟩) ⟨rfl, rfl, rfl, rfl⟩)

theorem composeCancelBody_evolves (s : State) : Evolves s (composeCancelBody s).1 := by
  unfold composeCancelBody
  split
  · exact .refl s
  · exact (freeMessage_evolves _ s).trans (compose_evolves _ _)

theorem composeBlock_evolves {d : DescNo} {s t : State} {b : BlockNo} (h : composeBlock d s = some (b, t)) :
    Evolves s t := by
  unfold composeBlock at h
  split at h
  · obtain ⟨⟨b', u⟩, hu, hb⟩ := Option.map_eq_some_iff.1 h
    cases hb
    exact (grantBlock_evolves hu).trans (setDesc_evolves (.of_same_wait id rfl rfl))
  · obtain ⟨b', -, hb⟩ := Option.map_eq_some_iff.1 h
    cases hb
    exact .refl s

theorem acceptByte_evolves (d : DescNo) (b : BlockNo) (v : Byte) (s : State) : Evolves s (acceptByte d b v s) :=
  (compose_evolves _ _).after (.after (setDesc_evolves (.of_same_wait id rfl rfl)) (appendByte_evolves b v s))

theorem writeComposePort_evolves (v : Byte) (s : State) : Evolves s (writeComposePort v s) := by
  unfold writeComposePort writeComposeByte
  split
  · exact .refl s
  · split
    · exact compose_evolves _ s
    · split
      · exact compose_evolves _ s
      · split
        · next h => exact (composeBlock_evolves h).trans (acceptByte_evolves _ _ v _)
        · exact compose_evolves _ s

/-! ### The service context -/

theorem serveItem_evolves (c : ServiceContext) (s : State) : Evolves s (serveItem c s) :=
  arbiter_evolves ⟨rfl, rfl, rfl⟩

theorem emptyService_evolves (s : State) : Evolves s (emptyService s) := arbiter_evolves ⟨rfl, rfl, rfl⟩

theorem takeItem_evolves (w : Source × Nat) (s : State) : Evolves s (takeItem w s) := by
  unfold takeItem
  split
  · split
    · exact (serveItem_evolves _ _).after
        (.after (setDesc_evolves (.of_not_waiting id ⟨nofun, nofun⟩)) (setReady_evolves _ _ s))
    · exact .refl s
  · split
    · next h =>
      exact (serveItem_evolves _ _).after
        (notices_evolve ⟨fun hq => by rw [h] at hq; exact Nat.le_of_succ_le hq, id⟩)
    · exact .refl s

theorem takeBody_evolves (s : State) : Evolves s (takeBody s).1 := by
  unfold takeBody
  split
  · exact .refl s
  · split
    · exact .refl s
    · split
      · exact takeItem_evolves _ s
      · exact .refl s

theorem takeAnyBody_evolves (s : State) : Evolves s (takeAnyBody s).1 := by
  unfold takeAnyBody
  split
  · exact .refl s
  · split
    · exact .refl s
    · exact takeItem_evolves _ s

theorem releaseBody_evolves (s : State) : Evolves s (releaseBody s).1 := by
  unfold releaseBody
  split
  · exact .refl s
  · exact (freeMessage_evolves _ s).trans (emptyService_evolves _)
  · exact emptyService_evolves s

theorem requeueBody_evolves (s : State) : Evolves s (requeueBody s).1 := by
  unfold requeueBody
  split
  · exact .refl s
  · exact (emptyService_evolves _).after
      ((setReady_evolves _ _ _).after (setDesc_evolves (.of_not_waiting id ⟨nofun, nofun⟩)))
  · split
    · next h => exact (emptyService_evolves _).after (notices_evolve ⟨fun _ => h, id⟩)
    · exact .refl s

theorem readDataPort_evolves (s : State) : Evolves s (readDataPort s) := by
  unfold readDataPort
  split
  · exact .refl s
  · split <;> exact arbiter_evolves ⟨rfl, rfl, rfl⟩

theorem writeCursorLow_evolves (v : Byte) (s : State) : Evolves s (writeCursorLow v s) :=
  arbiter_evolves ⟨rfl, rfl, rfl⟩

theorem writeCursorHigh_evolves (v : Byte) (s : State) : Evolves s (writeCursorHigh v s) := by
  unfold writeCursorHigh
  split
  · exact .refl s
  · split <;> exact arbiter_evolves ⟨rfl, rfl, rfl⟩

/-! ### Reads, link select and the ceiling's latch -/

theorem driveBus_evolves (v : Byte) (s : State) : Evolves s (driveBus v s) := host_evolves rfl rfl

theorem releaseBus_evolves (s : State) : Evolves s (releaseBus s) := host_evolves rfl rfl

theorem rejectWrite_evolves (s : State) : Evolves s (rejectWrite s) := host_evolves rfl rfl

theorem latchCursor_evolves (s : State) : Evolves s (latchCursor s) := arbiter_evolves ⟨rfl, rfl, rfl⟩
theorem latchWriteCount_evolves (s : State) : Evolves s (latchWriteCount s) := compose_evolves _ s
theorem latchTickCounter_evolves (s : State) : Evolves s (latchTickCounter s) :=
  time_evolves ⟨rfl, rfl, rfl, rfl, rfl⟩
theorem latchFreeCount_evolves (s : State) : Evolves s (latchFreeCount s) := pool_evolves ⟨rfl, rfl, id⟩
theorem latchInboundHold_evolves (s : State) : Evolves s (latchInboundHold s) := pool_evolves ⟨rfl, rfl, id⟩

theorem hostRead_evolves {value : State → Byte} {effect : State → State} {s : State} (h : Evolves s (effect s)) :
    Evolves s (hostRead value effect s) := by
  unfold hostRead
  split
  · exact driveBus_evolves _ s
  · exact h.trans (driveBus_evolves _ _)

theorem readEffect_evolves (a : BitVec 7) (s : State) : Evolves s (readEffect a s) := by
  generalize he : readEffect a = effect
  unfold readEffect at he
  split at he <;> subst he
  · exact readDataPort_evolves s
  · exact latchCursor_evolves s
  · exact latchWriteCount_evolves s
  · exact latchTickCounter_evolves s
  · exact latchFreeCount_evolves s
  · exact latchInboundHold_evolves s
  · exact .refl s

theorem takeRead_evolves (a : BitVec 7) (s : State) : Evolves s (takeRead a s) :=
  hostRead_evolves (readEffect_evolves a s)

theorem driveData_evolves (i : Inputs) (p : Pins) (s : State) : Evolves s (driveData i p s) := by
  unfold driveData
  split
  · exact takeRead_evolves _ s
  · split
    · exact .refl s
    · exact releaseBus_evolves s

theorem writeLinkSelect_evolves (v : Byte) (s : State) : Evolves s (writeLinkSelect v s) := by
  unfold writeLinkSelect
  split
  · exact host_evolves rfl rfl
  · exact rejectWrite_evolves s

theorem writeCeilingLow_evolves (v : Byte) (s : State) : Evolves s (writeCeilingLow v s) := host_evolves rfl rfl

end Sys2Proof.Steps
end

section
/-! PROOFS. What a step can do, said once: a chain of changes, each of which evolves the part, counts a period, advances
the tick, writes a setting, resets the part, or moves its initialisation on. -/

namespace Sys2Proof.Steps

open Sys2Proof.Machine Sys2Proof.Safety Sys2Proof.Statement

/-! ### No expiry is due after the expiries (R28) -/

/-- What expiries do: they free contexts and end waits, and make none. -/
structure Expires (s t : State) : Prop where
  now : t.now = s.now
  contexts : ∀ e, t.context e = s.context e ∨ t.context e = none
  descriptors : ∀ d, t.desc d = s.desc d ∨ ¬ Waiting (t.desc d)

theorem Expires.refl (s : State) : Expires s s := ⟨rfl, fun _ => .inl rfl, fun _ => .inl rfl⟩

theorem Expires.trans {s t u : State} (h : Expires s t) (k : Expires t u) : Expires s u where
  now := k.now.trans h.now
  contexts e := (k.contexts e).elim (fun k' => (h.contexts e).imp k'.trans k'.trans) .inr
  descriptors d := (k.descriptors d).elim
    (fun k' => (h.descriptors d).imp k'.trans fun hw => by rwa [k']) .inr

/-- The deadline of the entry's context is the tick of now. -/
def ContextDue (e : EntryNo) (s : State) : Prop := (s.context e).map (·.deadline) = some s.now

/-- The message waits, and its deadline is the tick of now. -/
def MessageDue (d : DescNo) (s : State) : Prop := Waiting (s.desc d) ∧ (s.desc d).deadline = some (.armed s.now)

theorem due_iff {s : State} : Due s ↔ (∃ e, ContextDue e s) ∨ ∃ d, MessageDue d s := .rfl

theorem Expires.contextDue {s t : State} (h : Expires s t) {e : EntryNo} (ht : ContextDue e t) : ContextDue e s := by
  unfold ContextDue at *
  obtain he | he := h.contexts e
  · rwa [he, h.now] at ht
  · simp [he] at ht

theorem Expires.messageDue {s t : State} (h : Expires s t) {d : DescNo} (ht : MessageDue d t) : MessageDue d s := by
  obtain ⟨hw, ht⟩ := ht
  obtain hd | hd := h.descriptors d
  · rw [hd] at hw ht; exact ⟨hw, by rwa [← h.now]⟩
  · exact absurd hw hd

theorem cleared_not_waiting : ¬ Waiting .cleared := by unfold Waiting; decide

theorem recordNotice_expires (n : Notice) (s : State) : Expires s (recordNotice n s) := by
  rw [recordNotice_eq]
  exact ⟨rfl, fun _ => .inl rfl, fun _ => .inl rfl⟩

theorem setDesc_expires {d : DescNo} {x : Descriptor} {s : State} (h : ¬ Waiting x) : Expires s (s.setDesc d x) where
  now := rfl
  contexts _ := .inl rfl
  descriptors i := by
    rw [State.setDesc_desc]
    split
    · exact .inr h
    · exact .inl rfl

theorem returnBlocks_expires (bs : List BlockNo) (s : State) : Expires s (returnBlocks bs s) :=
  ⟨rfl, fun _ => .inl rfl, fun _ => .inl rfl⟩

theorem setSch_expires (L : Link) (x : Scheduler) (s : State) : Expires s (s.setSch L x) :=
  ⟨rfl, fun _ => .inl rfl, fun _ => .inl rfl⟩

theorem setContext_none_expires (e : EntryNo) (s : State) : Expires s (s.setContext e none) where
  now := rfl
  contexts i := by
    rw [State.setContext_context]
    split
    · exact .inr rfl
    · exact .inl rfl
  descriptors _ := .inl rfl

theorem abandonContext_expires (e : EntryNo) (s : State) : Expires s (abandonContext e s) := by
  cases hc : s.context e with
  | none => rw [abandonContext_of_none hc]; exact .refl s
  | some c =>
    rw [abandonContext_eq hc]
    exact (returnBlocks_expires _ s).trans ((setDesc_expires cleared_not_waiting).trans (setContext_none_expires e _))

theorem endOutbound_expires (L : Link) (d : DescNo) (s : State) : Expires s (endOutbound L d s) :=
  (setSch_expires L _ s).trans ((returnBlocks_expires _ _).trans (setDesc_expires cleared_not_waiting))

theorem resend_not_waiting (x : Descriptor) :
    ¬ Waiting { x with state := .resend, position := 0, deadline := none } := nofun

theorem enterResend_expires (L : Link) (d : DescNo) (s : State) : Expires s (enterResend L d s) :=
  (setDesc_expires (resend_not_waiting (s.desc d))).trans (setSch_expires L _ _)

theorem lifetimeExpiry_expires (e : EntryNo) (s : State) : Expires s (lifetimeExpiry e s) := by
  obtain h | ⟨c, -, -, h⟩ := lifetimeExpiry_eq e s <;> rw [h]
  · exact .refl s
  · exact (abandonContext_expires e s).trans (recordNotice_expires _ _)

/-- The expiry of an entry leaves no context of it due. -/
theorem lifetimeExpiry_spent (e : EntryNo) (s : State) : ¬ ContextDue e (lifetimeExpiry e s) := by
  unfold ContextDue
  cases hc : s.context e with
  | none => simp [lifetimeExpiry, hc]
  | some c =>
    by_cases hd : c.deadline = s.now
    · have hx : lifetimeExpiry e s = expireContext e c s := by simp [lifetimeExpiry, State.contextDue, hc, hd]
      have hn : (expireContext e c s).context e = none := by
        rw [expireContext, recordNotice_eq, abandonContext_eq hc]
        exact State.setContext_context_self ..
      simp [hx, hn]
    · have hx : lifetimeExpiry e s = s := by simp [lifetimeExpiry, State.contextDue, hc, hd]
      simpa [hx, hc] using hd

theorem expireWait_expires (d : DescNo) (s : State) : Expires s (expireWait d s) := by
  simp only [expireWait]
  split
  · exact enterResend_expires ..
  · exact (recordNotice_expires _ s).trans (endOutbound_expires ..)

theorem expireWait_desc_not_waiting (d : DescNo) (s : State) : ¬ Waiting ((expireWait d s).desc d) := by
  simp only [expireWait]
  split
  · simpa [enterResend] using resend_not_waiting (s.desc d)
  · simpa [finishFailed, endOutbound_eq] using cleared_not_waiting

theorem ackWaitExpiry_expires (d : DescNo) (s : State) : Expires s (ackWaitExpiry d s) := by
  unfold ackWaitExpiry
  split
  · exact expireWait_expires d s
  · exact .refl s

theorem backoffExpiry_expires (d : DescNo) (s : State) : Expires s (backoffExpiry d s) := by
  unfold backoffExpiry
  split
  · exact enterResend_expires _ d s
  · exact .refl s

/-- The two expiries of a message leave no wait of it due. -/
theorem messageExpiries_spent (d : DescNo) (s : State) : ¬ MessageDue d (backoffExpiry d (ackWaitExpiry d s)) := by
  rintro ⟨hw, hd⟩
  have still : ackWaitExpiry d s = s := by
    obtain h | ⟨-, -, h⟩ := ackWaitExpiry_eq d s
    · exact h
    · obtain k | k := (backoffExpiry_expires d (ackWaitExpiry d s)).descriptors d
      · rw [k, h] at hw; exact absurd hw (expireWait_desc_not_waiting d s)
      · exact absurd hw k
  rw [still] at hw hd
  obtain h | ⟨-, -, h⟩ := backoffExpiry_eq d s
  · rw [h] at hw hd
    obtain ha | hb := hw
    · have due : s.waitDue .awaitAck d = true := by simp [State.waitDue, ha, hd]
      have := expireWait_desc_not_waiting d s
      rw [ackWaitExpiry, if_pos due] at still
      rw [still] at this
      exact this (.inl ha)
    · have due : s.waitDue .backoff d = true := by simp [State.waitDue, hb, hd]
      rw [backoffExpiry, if_pos due] at h
      rw [← h] at hb
      simp [enterResend] at hb
  · rw [h] at hw
    exact absurd hw (by simpa [enterResend] using resend_not_waiting (s.desc d))

/-- Events taken one after another for every entry of a list, each of which spends its own deadline, spend them all. -/
theorem foldl_spends {α : Type} {f : State → α → State} {D : α → State → Prop} (expires : ∀ s a, Expires s (f s a))
    (spent : ∀ s a, ¬ D a (f s a)) (kept : ∀ {s t a}, Expires s t → D a t → D a s) (l : List α) (s : State) :
    Expires s (l.foldl f s) ∧ ∀ a ∈ l, ¬ D a (l.foldl f s) := by
  induction l generalizing s with
  | nil => exact ⟨.refl s, nofun⟩
  | cons b l ih =>
    obtain ⟨he, hs⟩ := ih (f s b)
    refine ⟨(expires s b).trans he, fun a ha => ?_⟩
    obtain rfl | ha := List.mem_cons.1 ha
    · exact fun hd => spent s a (kept he hd)
    · exact hs a ha

/-- After the expiries of a tick no deadline is the tick of now (R28). -/
theorem takeExpiries_not_due (s : State) : ¬ Due (takeExpiries s) := by
  have lifetimes := foldl_spends (f := fun s e => lifetimeExpiry e s) (D := ContextDue)
    (fun s e => lifetimeExpiry_expires e s) (fun s e => lifetimeExpiry_spent e s) (fun h => h.contextDue)
    (List.finRange 32) s
  have messages := foldl_spends (f := fun s d => backoffExpiry d (ackWaitExpiry d s)) (D := MessageDue)
    (fun s d => (ackWaitExpiry_expires d s).trans (backoffExpiry_expires d _)) (fun s d => messageExpiries_spent d s)
    (fun h => h.messageDue) (List.finRange 96) (takeLifetimeExpiries s)
  rw [due_iff]
  rintro (⟨e, he⟩ | ⟨d, hd⟩)
  · exact lifetimes.2 e (List.mem_finRange e) (messages.1.contextDue he)
  · exact messages.2 d (List.mem_finRange d) hd

/-- With no deadline due, the expiries do nothing. -/
theorem takeExpiries_of_not_due {s : State} (h : ¬ Due s) : takeExpiries s = s := by
  rw [due_iff, not_or, not_exists, not_exists] at h
  obtain ⟨hc, hm⟩ := h
  refine takeExpiries_induction (P := (· = s)) rfl ?_ ?_ ?_
  · rintro e _ rfl
    obtain h | ⟨c, he, hd, -⟩ := lifetimeExpiry_eq e _
    · exact h
    · exact absurd (by simp [ContextDue, he, hd]) (hc e)
  · rintro d _ rfl
    obtain h | ⟨hs, hd, -⟩ := ackWaitExpiry_eq d _
    · exact h
    · exact absurd ⟨.inl hs, hd⟩ (hm d)
  · rintro d _ rfl
    obtain h | ⟨hs, hd, -⟩ := backoffExpiry_eq d _
    · exact h
    · exact absurd ⟨.inr hs, hd⟩ (hm d)

/-! ### The changes of a step -/

/-- One change of the part. -/
inductive Change : State → State → Prop where
  /-- An event, or a command other than those below. -/
  | evolves {s t : State} (h : Evolves s t) : Change s t
  /-- A reference period inside the interval is counted (R23). -/
  | count {s : State} (h : s.time.periodCount + 1 < s.time.intervalLength) :
      Change s { s with time := { s.time with periodCount := s.time.periodCount + 1 } }
  /-- The time base advances, and no expiry is due (R23, R28). -/
  | advance {s : State} (h : ¬ Due s) : Change s { s with time := advanceTick s.time }
  /-- A configuration write of a setting is taken (R184). -/
  | setting {s : State} (x : Setting) (v : Byte) (h : x.accepts v.toNat s = true) : Change s (x.assign v.toNat s)
  /-- A configuration write of an inbound ceiling is taken (R37). -/
  | ceiling {s : State} (L : Link) (v : Nat) (h : ceilingAccepts L v s = true) :
      Change s { s with pool := { s.pool with ceiling := s.pool.ceiling.put L v } }
  /-- A device reset (R188, R189). -/
  | reset {s : State} (low : Bool) : Change s (deviceReset low s)
  /-- The RESET line rises, or the rebuild of the free list moves on (R45, R188, R190). -/
  | startUp {s : State} (free : List BlockNo) (x : HostPort) :
      Change s { s with pool := { s.pool with freeList := free }, host := x }

/-- Changes one after another. -/
abbrev Changes : State → State → Prop := Relation.ReflTransGen Change

theorem Evolves.changes {s t : State} (h : Evolves s t) : Changes s t := .single (.evolves h)

/-- What every change keeps, a chain of changes keeps. -/
theorem Changes.keep {P : State → Prop} (h : ∀ {s t}, Change s t → P s → P t) {s t : State} (k : Changes s t)
    (hs : P s) : P t := by
  induction k with
  | refl => exact hs
  | tail _ c ih => exact h c ih

theorem takeTick_changes (s : State) : Changes s (takeTick s) := by
  cases h : s.host.resetLow with
  | true => rw [takeTick_low h]
  | false =>
    rw [takeTick_eq h, ← (takeExpiries_linkFrame s).time]
    exact (takeExpiries_evolve s).changes.tail (.advance (takeExpiries_not_due s))

theorem finishRebuild_changes (s : State) : Changes s (finishRebuild s) := .single (.startUp _ _)

theorem placeBlock_changes (s : State) : Changes s (placeBlock s) := by
  unfold placeBlock
  split
  · split
    · exact .single (.startUp _ s.host)
    · exact finishRebuild_changes s
  · exact .refl

theorem countPeriod_changes (s : State) : Changes s (countPeriod s) := by
  unfold countPeriod
  split
  · next h => exact .single (.count h)
  · exact takeTick_changes s

/-! ### Writes of the window -/

theorem hostWrite_changes {effect : State → State} {s : State} (h : Changes s (effect s)) :
    Changes s (hostWrite effect s) := by
  unfold hostWrite
  split
  · exact .refl
  · exact h

theorem commandDeviceReset_changes (s : State) : Changes s (commandDeviceReset s) := by
  refine hostWrite_changes ?_
  split
  · exact Evolves.changes (host_evolves rfl rfl)
  · exact .single (.reset false)

theorem writeCommandRegister_changes (code : Byte) (s : State) : Changes s (writeCommandRegister code s) := by
  unfold writeCommandRegister
  split
  · exact (issueCommand_evolves (linkStartBody_evolves s)).changes
  · exact (issueCommand_evolves (linkStopBody_evolves s)).changes
  · exact (issueCommand_evolves (linkResetBody_evolves s)).changes
  · exact (issueCommand_evolves (takeBody_evolves s)).changes
  · exact (issueCommand_evolves (takeAnyBody_evolves s)).changes
  · exact (issueCommand_evolves (releaseBody_evolves s)).changes
  · exact (issueCommand_evolves (requeueBody_evolves s)).changes
  · exact (issueCommand_evolves (composeOpenBody_evolves s)).changes
  · exact (issueCommand_evolves (composeSubmitBody_evolves s)).changes
  · exact (issueCommand_evolves (composeCancelBody_evolves s)).changes
  · exact (issueCommand_evolves (outWithdrawBody_evolves s)).changes
  · exact (issueCommand_evolves (noticeClearOverflowBody_evolves s)).changes
  · exact (issueCommand_evolves (countersClearBody_evolves s)).changes
  · exact (issueCommand_evolves (clearFlagsBody_evolves s)).changes
  · exact commandDeviceReset_changes s
  · exact (issueCommand_evolves (.refl s : Evolves s (unknownBody s).1)).changes

theorem writeSetting_changes (x : Setting) (v : Byte) (s : State) : Changes s (writeSetting x v.toNat s) := by
  unfold writeSetting
  split
  · next h => exact .single (.setting x v h)
  · exact (rejectWrite_evolves s).changes

theorem writeCeilingHigh_changes (v : Byte) (s : State) : Changes s (writeCeilingHigh v s) := by
  unfold writeCeilingHigh writeCeiling
  split
  · next h => exact .single (.ceiling _ _ h)
  · exact (rejectWrite_evolves s).changes

theorem windowWrite_changes (a : BitVec 7) (v : Byte) (s : State) : Changes s (windowWrite a v s) := by
  unfold windowWrite
  split
  · exact writeCommandRegister_changes v s
  · exact (writeLinkSelect_evolves v s).changes
  · exact Evolves.changes (host_evolves rfl rfl)
  · exact Evolves.changes (host_evolves rfl rfl)
  · exact Evolves.changes (host_evolves rfl rfl)
  · exact (writeCursorLow_evolves v s).changes
  · exact (writeCursorHigh_evolves v s).changes
  · exact (writeComposePort_evolves v s).changes
  · exact (writeCeilingLow_evolves v s).changes
  · exact writeCeilingHigh_changes v s
  · split
    · exact writeSetting_changes _ v s
    · exact .refl

/-! ### A reference period, a command and a step -/

theorem busPeriod_changes (s : State) : Changes s (busPeriod s) := by
  have written : Changes s (if writeEnds s.inputs s.inputs.next then
      takeWrite s.inputs.next.address s.inputs.next.data s else s) := by
    split
    · exact hostWrite_changes (windowWrite_changes _ _ s)
    · exact .refl
  exact (written.trans (driveData_evolves _ _ _).changes).trans (inputs_evolve _ _).changes

theorem clockPeriod_changes (s : State) : Changes s (clockPeriod s) := by
  simp only [clockPeriod]
  split
  · exact busPeriod_changes s
  · exact ((((busPeriod_changes s).trans (countPeriod_changes _)).trans (agePulsePeriod_evolves _).changes).trans
      (placeBlock_changes _)).trans (linkPeriods_evolve _).changes

theorem execResetLineLow_changes (s : State) : Changes s (voidAccess (deviceReset true s)) :=
  .tail (.single (.reset true)) (.evolves (inputs_evolve _ _))

theorem rebuilt_changes (s : State) : Changes s (if s.rebuilding then finishRebuild s else s) := by
  split
  · exact finishRebuild_changes s
  · exact .refl

theorem frameEnded_evolves (L : Link) (s : State) :
    Evolves s (if (s.port L).transmitter = .active then endFrame L s else s) := by
  split
  · exact endFrame_evolves L s
  · exact .refl s

theorem gapEnded_evolves (L : Link) (s : State) :
    Evolves s (if (s.port L).transmitter = .gap ∧ s.host.resetLow = false then enterIdle L s else s) := by
  split
  · exact setPort_evolves_of_same ⟨rfl, rfl, rfl, rfl⟩
  · exact .refl s

/-- Every command ends in a next state, by changes. -/
theorem exec_changes (c : Instr) (s : State) : ∃ t, exec c s = .next t ∧ Changes s t :=
  match c with
  | .resetLineLow => ⟨_, rfl, execResetLineLow_changes s⟩
  | .resetLineHigh => ⟨_, rfl, .single (.startUp s.pool.freeList _)⟩
  | .freeListRebuilt => ⟨_, rfl, rebuilt_changes s⟩
  | .tick => ⟨_, rfl, takeTick_changes s⟩
  | .agePulse => ⟨_, rfl, (agePulsePeriod_evolves s).changes⟩
  | .contextLifetimeExpiry e => ⟨_, rfl, (lifetimeExpiry_evolves e s).changes⟩
  | .acknowledgementWaitExpiry d => ⟨_, rfl, (ackWaitExpiry_evolves d s).changes⟩
  | .refuseBackoffExpiry d => ⟨_, rfl, (backoffExpiry_evolves d s).changes⟩
  | .settlingGapEnd L => ⟨_, rfl, (endSettling_evolves L s).changes⟩
  | .rxFrameComplete L => ⟨_, rfl, (finishFrame_evolves L s).changes⟩
  | .truncation L => ⟨_, rfl, (truncateFrame_evolves L s).changes⟩
  | .characterError L => ⟨_, rfl, (receiveError_evolves L s).changes⟩
  | .oversizedPayloadLength L => ⟨_, rfl, (discardOversized_evolves L s).changes⟩
  | .fragment L => ⟨_, rfl, (takeHandedFragment_evolves L s).changes⟩
  | .ackReceived L => ⟨_, rfl, (takeHandedAck_evolves L s).changes⟩
  | .refuseReceived L => ⟨_, rfl, (takeHandedRefuse_evolves L s).changes⟩
  | .frameStart L => ⟨_, rfl, (takeFrameStart_evolves L s).changes⟩
  | .frameEnd L => ⟨_, rfl, (frameEnded_evolves L s).changes⟩
  | .txGapEnd L => ⟨_, rfl, (gapEnded_evolves L s).changes⟩
  | .linkStart => ⟨_, rfl, (issueCommand_evolves (linkStartBody_evolves s)).changes⟩
  | .linkStop => ⟨_, rfl, (issueCommand_evolves (linkStopBody_evolves s)).changes⟩
  | .linkReset => ⟨_, rfl, (issueCommand_evolves (linkResetBody_evolves s)).changes⟩
  | .take => ⟨_, rfl, (issueCommand_evolves (takeBody_evolves s)).changes⟩
  | .takeAny => ⟨_, rfl, (issueCommand_evolves (takeAnyBody_evolves s)).changes⟩
  | .release => ⟨_, rfl, (issueCommand_evolves (releaseBody_evolves s)).changes⟩
  | .requeue => ⟨_, rfl, (issueCommand_evolves (requeueBody_evolves s)).changes⟩
  | .composeOpen => ⟨_, rfl, (issueCommand_evolves (composeOpenBody_evolves s)).changes⟩
  | .composeSubmit => ⟨_, rfl, (issueCommand_evolves (composeSubmitBody_evolves s)).changes⟩
  | .composeCancel => ⟨_, rfl, (issueCommand_evolves (composeCancelBody_evolves s)).changes⟩
  | .outWithdraw => ⟨_, rfl, (issueCommand_evolves (outWithdrawBody_evolves s)).changes⟩
  | .noticeClearOverflow => ⟨_, rfl, (issueCommand_evolves (noticeClearOverflowBody_evolves s)).changes⟩
  | .countersClear => ⟨_, rfl, (issueCommand_evolves (countersClearBody_evolves s)).changes⟩
  | .clearFlags => ⟨_, rfl, (issueCommand_evolves (clearFlagsBody_evolves s)).changes⟩
  | .deviceReset => ⟨_, rfl, commandDeviceReset_changes s⟩
  | .unknownCommand code => ⟨_, rfl, writeCommandRegister_changes code s⟩
  | .readDataPortRead => ⟨_, rfl, (hostRead_evolves (readDataPort_evolves s)).changes⟩
  | .readCursorLowWrite v => ⟨_, rfl, hostWrite_changes (writeCursorLow_evolves v s).changes⟩
  | .readCursorHighWrite v => ⟨_, rfl, hostWrite_changes (writeCursorHigh_evolves v s).changes⟩
  | .readCursorLowRead => ⟨_, rfl, (hostRead_evolves (latchCursor_evolves s)).changes⟩
  | .composeDataPortWrite v => ⟨_, rfl, hostWrite_changes (writeComposePort_evolves v s).changes⟩
  | .tickCounterLowRead => ⟨_, rfl, (hostRead_evolves (latchTickCounter_evolves s)).changes⟩
  | .freeCountLowRead => ⟨_, rfl, (hostRead_evolves (latchFreeCount_evolves s)).changes⟩
  | .inboundHoldLowRead => ⟨_, rfl, (hostRead_evolves (latchInboundHold_evolves s)).changes⟩
  | .writeCountLowRead => ⟨_, rfl, (hostRead_evolves (latchWriteCount_evolves s)).changes⟩
  | .ceilingLowWrite v => ⟨_, rfl, hostWrite_changes (writeCeilingLow_evolves v s).changes⟩
  | .ceilingHighWrite v => ⟨_, rfl, hostWrite_changes (writeCeilingHigh_changes v s)⟩
  | .linkSelectWrite v => ⟨_, rfl, hostWrite_changes (writeLinkSelect_evolves v s).changes⟩
  | .configurationWrite a v => ⟨_, rfl, hostWrite_changes (windowWrite_changes a v s)⟩
  | .characterReceived L b => ⟨_, rfl, (receiveCharacter_evolves L b s).changes⟩

/-- Every step is a chain of changes. -/
theorem step_changes {s t : State} (h : step s = .next t) : Changes s t := by
  unfold step at h
  split at h
  · cases h; exact clockPeriod_changes s
  · next c rest _ =>
    obtain ⟨u, hu, k⟩ := exec_changes c { s with pending := rest }
    obtain rfl : u = t := by rw [hu] at h; exact Host.Outcome.next.inj h
    exact .trans (pending_evolves rest s).changes k

end Sys2Proof.Steps
end

section
/-! PROOFS. Three invariants of every step, each shown for one change at a time: the settings, the deadlines, and the
bounds with the form of the memory. -/

namespace Sys2Proof.Steps

open Sys2Proof.Machine Sys2Proof.Safety Sys2Proof.Statement

/-! ### What a configuration write and a reset leave -/

/-- What a taken configuration write leaves: everything but settings, the divider and the measure of a gap. -/
structure SettingOnly (s t : State) : Prop where
  table : t.table = s.table
  contexts : t.reasm.contexts = s.reasm.contexts
  history : t.reasm.history = s.reasm.history
  notices : t.notices = s.notices
  blocks : t.pool.blocks = s.pool.blocks
  period : t.time.periodCount = s.time.periodCount ∧ t.time.intervalLength = s.time.intervalLength
  now : t.now = s.now
  compose : t.compose = s.compose
  service : t.arbiter.service = s.arbiter.service ∧ t.arbiter.overread = s.arbiter.overread
  host : t.host = s.host
  link : ∀ L, (t.port L).state = (s.port L).state
  control : ∀ L, (t.port L).controlQueue = (s.port L).controlQueue
  counters : ∀ L, (t.port L).counters = (s.port L).counters

theorem settingOnly_setPort {L : Link} {p : LinkPort} {s : State} (hs : p.state = (s.port L).state)
    (hq : p.controlQueue = (s.port L).controlQueue) (hc : p.counters = (s.port L).counters) :
    SettingOnly s (s.setPort L p) := by
  have same {α : Type} (f : LinkPort → α) (h : f p = f (s.port L)) (M : Link) :
      f ((s.setPort L p).port M) = f (s.port M) := by
    rw [State.setPort_port]
    split
    · next hM => rw [hM, h]
    · rfl
  exact ⟨rfl, rfl, rfl, rfl, rfl, ⟨rfl, rfl⟩, rfl, rfl, ⟨rfl, rfl⟩, rfl, same (·.state) hs, same (·.controlQueue) hq,
    same (·.counters) hc⟩

theorem assign_settingOnly (x : Setting) (v : Nat) (s : State) : SettingOnly s (x.assign v s) := by
  cases x with
  | stationAddress | acceptBroadcast | lineRate => exact settingOnly_setPort rfl rfl rfl
  | prescale | ageStep | composeReserve | noticeWeight | threshold | attentionEnable | contextQuota
  | reassemblyLifetime | linkWeight | outstandingLimit | attemptLimit | ackWait | refuseBackoff | reportDone =>
    exact ⟨rfl, rfl, rfl, rfl, rfl, ⟨rfl, rfl⟩, rfl, rfl, ⟨rfl, rfl⟩, rfl, fun _ => rfl, fun _ => rfl, fun _ => rfl⟩

theorem ceiling_settingOnly (L : Link) (v : Nat) (s : State) :
    SettingOnly s { s with pool := { s.pool with ceiling := s.pool.ceiling.put L v } } :=
  ⟨rfl, rfl, rfl, rfl, rfl, ⟨rfl, rfl⟩, rfl, rfl, ⟨rfl, rfl⟩, rfl, fun _ => rfl, fun _ => rfl, fun _ => rfl⟩

theorem SettingOnly.desc {s t : State} (h : SettingOnly s t) (d : DescNo) : t.desc d = s.desc d := by
  rw [State.desc, h.table, State.desc]

theorem SettingOnly.ready {s t : State} (h : SettingOnly s t) (L : Link) : t.ready L = s.ready L := by
  rw [State.ready, h.table, State.ready]

theorem SettingOnly.context {s t : State} (h : SettingOnly s t) (e : EntryNo) : t.context e = s.context e := by
  rw [State.context, h.contexts, State.context]

@[simp] theorem deviceReset_port (low : Bool) (s : State) (L : Link) : (deviceReset low s).port L = .reset :=
  Table.look_fill ..
@[simp] theorem deviceReset_sch (low : Bool) (s : State) (L : Link) : (deviceReset low s).sch L = .reset :=
  Table.look_fill ..
@[simp] theorem deviceReset_desc (low : Bool) (s : State) (d : DescNo) : (deviceReset low s).desc d = .cleared :=
  Table.look_fill ..
@[simp] theorem deviceReset_ready (low : Bool) (s : State) (L : Link) : (deviceReset low s).ready L = [] :=
  Table.look_fill ..
@[simp] theorem deviceReset_context (low : Bool) (s : State) (e : EntryNo) : (deviceReset low s).context e = none :=
  Table.look_fill ..
@[simp] theorem deviceReset_history (low : Bool) (s : State) (L : Link) : (deviceReset low s).history L = [] :=
  Table.look_fill ..

/-! ### Settings and the period (R23, R184) -/

/-- An entry put into a table whose entries satisfy `P`. -/
theorem look_put_of {α : Type} {n : Nat} {P : α → Prop} {t : Table α n} {i : Fin n} {a : α} (h : ∀ j, P (t.look j))
    (ha : P a) (j : Fin n) : P ((t.put i a).look j) := by
  rw [Table.look_put]
  split
  · exact ha
  · exact h j

theorem setPort_settingsLegal {L : Link} {p : LinkPort} {s : State} (h : SettingsLegal s)
    (ha : p.stationAddress ≤ 254) (hl : p.lineRate ≤ 7) : SettingsLegal (s.setPort L p) :=
  { h with
    links := fun M =>
      { h.links M with
        stationAddress := look_put_of (P := fun q : LinkPort => q.stationAddress ≤ 254)
          (fun j => (h.links j).stationAddress) ha M
        lineRate := look_put_of (P := fun q : LinkPort => q.lineRate ≤ 7) (fun j => (h.links j).lineRate) hl M } }

theorem setSch_settingsLegal {L : Link} {x : Scheduler} {s : State} (h : SettingsLegal s)
    (ho : 1 ≤ x.outstandingLimit ∧ x.outstandingLimit ≤ 4) (ha : 1 ≤ x.attemptLimit ∧ x.attemptLimit ≤ 15)
    (hw : 1 ≤ x.ackWait ∧ x.ackWait ≤ 255) (hb : 1 ≤ x.refuseBackoff ∧ x.refuseBackoff ≤ 255) :
    SettingsLegal (s.setSch L x) :=
  { h with
    links := fun M =>
      { h.links M with
        outstandingLimit := look_put_of (P := fun y : Scheduler => 1 ≤ y.outstandingLimit ∧ y.outstandingLimit ≤ 4)
          (fun j => (h.links j).outstandingLimit) ho M
        attemptLimit := look_put_of (P := fun y : Scheduler => 1 ≤ y.attemptLimit ∧ y.attemptLimit ≤ 15)
          (fun j => (h.links j).attemptLimit) ha M
        ackWait := look_put_of (P := fun y : Scheduler => 1 ≤ y.ackWait ∧ y.ackWait ≤ 255)
          (fun j => (h.links j).ackWait) hw M
        refuseBackoff := look_put_of (P := fun y : Scheduler => 1 ≤ y.refuseBackoff ∧ y.refuseBackoff ≤ 255)
          (fun j => (h.links j).refuseBackoff) hb M } }

/-- A setting that receives a value of its range leaves every setting in its range. -/
theorem assign_settingsLegal {x : Setting} {v : Nat} {s : State} (h : SettingsLegal s) (hx : x.inRange v = true)
    (hv : v ≤ 255) : SettingsLegal (x.assign v s) := by
  have link := h.links s.selected
  cases x <;> simp only [Setting.inRange, decide_eq_true_eq] at hx
  case prescale => exact { h with prescale := hv, links := fun M => { h.links M with } }
  case ageStep => exact { h with ageStep := hv, links := fun M => { h.links M with } }
  case composeReserve => exact { h with reserve := hx, links := fun M => { h.links M with } }
  case noticeWeight => exact { h with noticeWeight := hx, links := fun M => { h.links M with } }
  case threshold => exact { h with threshold := hv, links := fun M => { h.links M with } }
  case attentionEnable => exact { h with links := fun M => { h.links M with } }
  case stationAddress => exact setPort_settingsLegal h hx link.lineRate
  case acceptBroadcast => exact setPort_settingsLegal h link.stationAddress link.lineRate
  case lineRate => exact setPort_settingsLegal h link.stationAddress hx
  case contextQuota =>
    exact { h with links := fun M => { h.links M with
      quota := look_put_of (P := fun n => 1 ≤ n ∧ n ≤ 32) (fun j => (h.links j).quota) hx M } }
  case reassemblyLifetime =>
    exact { h with links := fun M => { h.links M with
      lifetime := look_put_of (P := fun n => 1 ≤ n ∧ n ≤ 255) (fun j => (h.links j).lifetime) ⟨hx, hv⟩ M } }
  case linkWeight =>
    exact { h with links := fun M => { h.links M with
      weight := look_put_of (P := (· ≤ 7)) (fun j => (h.links j).weight) hx M } }
  case outstandingLimit => exact setSch_settingsLegal h hx link.attemptLimit link.ackWait link.refuseBackoff
  case attemptLimit => exact setSch_settingsLegal h link.outstandingLimit hx link.ackWait link.refuseBackoff
  case ackWait => exact setSch_settingsLegal h link.outstandingLimit link.attemptLimit ⟨hx, hv⟩ link.refuseBackoff
  case refuseBackoff => exact setSch_settingsLegal h link.outstandingLimit link.attemptLimit link.ackWait ⟨hx, hv⟩
  case reportDone =>
    exact setSch_settingsLegal h link.outstandingLimit link.attemptLimit link.ackWait link.refuseBackoff

theorem Evolves.settingsLegal {s t : State} (h : Evolves s t) (k : SettingsLegal s) : SettingsLegal t where
  prescale := h.time.prescale ▸ k.prescale
  ageStep := h.time.ageStep ▸ k.ageStep
  reserve := h.pool.reserve ▸ k.reserve
  noticeWeight := h.arbiter.noticeWeight ▸ k.noticeWeight
  threshold := h.arbiter.threshold ▸ k.threshold
  links L :=
    { stationAddress := (h.ports L).stationAddress ▸ (k.links L).stationAddress
      lineRate := (h.ports L).lineRate ▸ (k.links L).lineRate
      quota := h.quota ▸ (k.links L).quota
      lifetime := h.lifetime ▸ (k.links L).lifetime
      ceiling := h.pool.ceiling ▸ (k.links L).ceiling
      weight := h.arbiter.linkWeight ▸ (k.links L).weight
      outstandingLimit := (h.sched L).outstandingLimit ▸ (k.links L).outstandingLimit
      attemptLimit := (h.sched L).attemptLimit ▸ (k.links L).attemptLimit
      ackWait := (h.sched L).ackWait ▸ (k.links L).ackWait
      refuseBackoff := (h.sched L).refuseBackoff ▸ (k.links L).refuseBackoff }

theorem deviceReset_settingsLegal (low : Bool) (s : State) : SettingsLegal (deviceReset low s) where
  prescale := by simp [deviceReset, TimeBase.reset]
  ageStep := by simp [deviceReset, TimeBase.reset]
  reserve := by simp [deviceReset, Pool.reset]
  noticeWeight := by simp [deviceReset, Arbiter.reset]
  threshold := by simp [deviceReset, Arbiter.reset]
  links L := by
    constructor <;>
      simp [deviceReset, State.port, State.sch, LinkPort.reset, Scheduler.reset, Reassembly.reset, Pool.reset,
        Arbiter.reset]

theorem accepts_inRange {x : Setting} {v : Nat} {s : State} (h : x.accepts v s = true) : x.inRange v = true := by
  simp only [Setting.accepts, Bool.and_eq_true] at h
  obtain ⟨⟨hx, -⟩, -⟩ := h
  exact hx

theorem Change.settingsLegal {s t : State} (c : Change s t) (h : SettingsLegal s) : SettingsLegal t := by
  cases c with
  | evolves c => exact c.settingsLegal h
  | setting x v hx => exact assign_settingsLegal h (accepts_inRange hx) (by omega)
  | ceiling L v hv =>
    simp only [ceilingAccepts, Bool.and_eq_true, decide_eq_true_eq] at hv
    obtain ⟨⟨hr, -⟩, -⟩ := hv
    exact { h with links := fun M => { h.links M with
      ceiling := look_put_of (P := fun n => 16 ≤ n ∧ n ≤ 512) (fun j => (h.links j).ceiling) hr M } }
  | reset low => exact deviceReset_settingsLegal low s
  | count _ | advance _ | startUp _ _ => exact { h with links := fun M => { h.links M with } }

/-- The period is as it was. -/
theorem periodInInterval_of_same {s t : State} (h : PeriodInInterval s) (hp : t.time.periodCount = s.time.periodCount)
    (hi : t.time.intervalLength = s.time.intervalLength) : PeriodInInterval t := by
  rwa [PeriodInInterval, hp, hi]

theorem Change.periodInInterval {s t : State} (c : Change s t) (hs : SettingsLegal s) (h : PeriodInInterval s) :
    PeriodInInterval t := by
  cases c with
  | evolves c => exact periodInInterval_of_same h c.time.periodCount c.time.intervalLength
  | count hc => exact ⟨hc, h.2⟩
  | advance _ => exact ⟨by simp [advanceTick, Config.intervalOf], s.time.prescale, hs.prescale, rfl⟩
  | setting x v _ =>
    obtain ⟨hp, hi⟩ := (assign_settingOnly x v.toNat s).period
    exact periodInInterval_of_same h hp hi
  | ceiling _ _ _ => exact h
  | reset low => exact ⟨by simp [deviceReset, TimeBase.reset], 3, by decide, rfl⟩
  | startUp _ _ => exact h

/-- Settles O51: each change keeps both, so every step does. -/
theorem everyStepKeepsTheSettingsLegal : Obligations.EveryStepKeepsTheSettingsLegal := fun _ _ hs hp h =>
  (step_changes h).keep (P := fun s => SettingsLegal s ∧ PeriodInInterval s)
    (fun c k => ⟨c.settingsLegal k.1, c.periodInInterval k.1 k.2⟩) ⟨hs, hp⟩

/-! ### Deadlines (R27, R28) -/

/-- A deadline armed for at most 255 ticks is at most 255 ticks ahead. -/
theorem deadlineAfter_ahead {s : State} {n : Nat} (h : n ≤ 255) : (s.deadlineAfter n - s.now).toNat ≤ 255 := by
  unfold State.deadlineAfter
  bv_omega

/-- A deadline that is ahead and is not the tick of now is still ahead at the next tick. -/
theorem ahead_of_ne {t now : Tick} (h : (t - now).toNat ≤ 255) (hne : t ≠ now) : (t - (now + 1)).toNat ≤ 255 := by
  bv_omega

/-- A deadline armed now is ahead, with every interval in its range. -/
theorem freshWait_ahead {s : State} (h : SettingsLegal s) {t : Tick} (ht : FreshWait s t) :
    (t - s.now).toNat ≤ 255 := by
  obtain ⟨L, rfl | rfl⟩ := ht
  · exact deadlineAfter_ahead (h.links L).ackWait.2
  · exact deadlineAfter_ahead (h.links L).refuseBackoff.2

theorem Evolves.deadlinesAhead {s t : State} (h : Evolves s t) (hs : SettingsLegal s) (k : DeadlinesAhead s) :
    DeadlinesAhead t where
  contexts e c hc := by
    rw [h.now]
    obtain ⟨c', hc', hd⟩ | ⟨L, hd⟩ := h.contexts e c hc <;> rw [hd]
    · exact k.contexts e c' hc'
    · exact deadlineAfter_ahead (hs.links L).lifetime.2
  messages d w hw hd := by
    rw [h.now]
    obtain ⟨hw', hd'⟩ | hf := (h.descriptors d).deadline hw w hd
    · exact k.messages d w hw' hd'
    · exact freshWait_ahead hs hf

theorem SettingOnly.deadlinesAhead {s t : State} (h : SettingOnly s t) (k : DeadlinesAhead s) : DeadlinesAhead t where
  contexts e c hc := by rw [h.now]; exact k.contexts e c (by rwa [← h.context])
  messages d w hw hd := by rw [h.desc] at hw hd; rw [h.now]; exact k.messages d w hw hd

/-- The tick counter advances past no deadline, since none is due (R28). -/
theorem advance_deadlinesAhead {s : State} (hd : ¬ Due s) (h : DeadlinesAhead s) :
    DeadlinesAhead { s with time := advanceTick s.time } where
  contexts e c hc :=
    ahead_of_ne (h.contexts e c hc) fun (k : c.deadline = s.now) =>
      hd (.inl ⟨e, (congrArg (Option.map (·.deadline)) hc).trans (congrArg some k)⟩)
  messages d w hw ht :=
    ahead_of_ne (h.messages d w hw ht) fun (k : w = s.now) =>
      hd (.inr ⟨d, hw, ht.trans (congrArg (some ∘ Deadline.armed) k)⟩)

theorem Change.deadlinesAhead {s t : State} (c : Change s t) (hs : SettingsLegal s) (h : DeadlinesAhead s) :
    DeadlinesAhead t := by
  cases c with
  | evolves c => exact c.deadlinesAhead hs h
  | count _ => exact ⟨h.contexts, h.messages⟩
  | advance hd => exact advance_deadlinesAhead hd h
  | setting x v _ => exact (assign_settingOnly x v.toNat s).deadlinesAhead h
  | ceiling L v _ => exact (ceiling_settingOnly L v s).deadlinesAhead h
  | reset low => exact ⟨fun e c hc => by simp at hc, fun d w hw => by simp [Descriptor.cleared] at hw⟩
  | startUp _ _ => exact ⟨h.contexts, h.messages⟩

/-- Settles O52: with the settings in their ranges, each change keeps every deadline ahead. -/
theorem everyStepKeepsDeadlinesAhead : Obligations.EveryStepKeepsDeadlinesAhead := fun _ _ hs hd h =>
  ((step_changes h).keep (P := fun s => SettingsLegal s ∧ DeadlinesAhead s)
    (fun c k => ⟨c.settingsLegal k.1, c.deadlinesAhead k.1 k.2⟩) ⟨hs, hd⟩).2

/-! ### Bounds and the memory (R30, R89, R96, R168, R174) -/

theorem Evolves.queuesBounded {s t : State} (h : Evolves s t) (k : QueuesBounded s) : QueuesBounded t where
  notices := h.notices.records k.notices
  overflow := h.notices.overflow k.overflow
  control L := (h.ports L).control (k.control L)
  history L := h.history L (k.history L)
  counters L := (h.ports L).counters (k.counters L)
  age d := (h.descriptors d).age (k.age d)

theorem SettingOnly.queuesBounded {s t : State} (h : SettingOnly s t) (k : QueuesBounded s) : QueuesBounded t where
  notices := h.notices ▸ k.notices
  overflow := h.notices ▸ k.overflow
  control L := h.control L ▸ k.control L
  history L := by rw [State.history, h.history]; exact k.history L
  counters L := h.counters L ▸ k.counters L
  age d := h.desc d ▸ k.age d

theorem deviceReset_queuesBounded (low : Bool) (s : State) : QueuesBounded (deviceReset low s) where
  notices := Nat.zero_le _
  overflow := Nat.zero_le _
  control L := by simp [LinkPort.reset]
  history L := by simp
  counters L := by rw [deviceReset_port]; exact countersZero_bounded
  age d := by simp [Descriptor.cleared]

theorem Change.queuesBounded {s t : State} (c : Change s t) (h : QueuesBounded s) : QueuesBounded t := by
  cases c with
  | evolves c => exact c.queuesBounded h
  | setting x v _ => exact (assign_settingOnly x v.toNat s).queuesBounded h
  | ceiling L v _ => exact (ceiling_settingOnly L v s).queuesBounded h
  | reset low => exact deviceReset_queuesBounded low s
  | count _ | advance _ | startUp _ _ => exact { h with }

theorem Change.memorySound {s t : State} (c : Change s t) (h : MemorySound s) : MemorySound t := by
  cases c with
  | evolves c => exact c.pool.memory h
  | setting x v _ => unfold MemorySound; rwa [(assign_settingOnly x v.toNat s).blocks]
  | count _ | advance _ | ceiling _ _ _ | reset _ | startUp _ _ => exact h

/-- Settles O53: each change keeps the bounds, and each keeps the form of the memory. -/
theorem everyStepKeepsTheBoundsAndTheMemoryForm : Obligations.EveryStepKeepsTheBoundsAndTheMemoryForm := fun _ _ h =>
  ⟨(step_changes h).keep Change.queuesBounded, (step_changes h).keep Change.memorySound⟩

end Sys2Proof.Steps
end

section
/-! PROOFS. The tick, the age pulse, and the tick at which the first age pulse comes (chapter 2). -/

namespace Sys2Proof.Steps

open Sys2Proof.Machine Sys2Proof.Safety Sys2Proof.Statement

/-! ### Expiries as commands -/

theorem inTurn_append {cs ds : List Instr} {s t u : State} (h : inTurn cs s t) (k : inTurn ds t u) :
    inTurn (cs ++ ds) s u := by
  induction cs generalizing s with
  | nil => cases h; exact k
  | cons c cs ih =>
    obtain ⟨v, hv, h⟩ := h
    exact ⟨v, hv, ih h⟩

/-- Commands that belong to the entries of a list, taken entry by entry, do what the entries' functions do in turn. -/
theorem inTurn_flatMap {α : Type} {f : State → α → State} {g : α → List Instr} (h : ∀ s a, inTurn (g a) s (f s a))
    (l : List α) (s : State) : inTurn (l.flatMap g) s (l.foldl f s) := by
  induction l generalizing s with
  | nil => rfl
  | cons a l ih => exact inTurn_append (h s a) (ih _)

/-- The expiries that a tick takes are those of the table's commands, in their order. -/
theorem takeExpiries_inTurn (s : State) : inTurn everyExpiry s (takeExpiries s) := by
  have lifetime (t : State) (e : EntryNo) : inTurn [.contextLifetimeExpiry e] t (lifetimeExpiry e t) := ⟨_, rfl, rfl⟩
  have message (t : State) (d : DescNo) :
      inTurn [.acknowledgementWaitExpiry d, .refuseBackoffExpiry d] t (backoffExpiry d (ackWaitExpiry d t)) :=
    ⟨_, rfl, _, rfl, rfl⟩
  refine inTurn_append (t := takeLifetimeExpiries s) ?_ (inTurn_flatMap message _ _)
  rw [List.map_eq_flatMap]
  exact inTurn_flatMap lifetime _ _

/-! ### The tick and the age pulse (R23, R25, R29, R30) -/

theorem advanceTick_tickCounter (x : TimeBase) :
    (advanceTick x).tickCounter.toNat = (x.tickCounter.toNat + 1) % 65536 := by
  simp [advanceTick, BitVec.toNat_add]

/-- With age-step 0 the divider stands still (R29). -/
theorem advanceTick_of_ageStep_zero {x : TimeBase} (h : x.ageStep = 0) :
    (advanceTick x).divider = x.divider ∧ (advanceTick x).agePulses = x.agePulses := by
  simp [advanceTick, h]

/-- The tick at which the divider reaches the age-step produces a pulse (R29). -/
theorem advanceTick_of_pulse {x : TimeBase} (h : x.ageStep ≠ 0) (hd : x.divider + 1 = x.ageStep) :
    (advanceTick x).divider = 0 ∧ (advanceTick x).agePulses = x.agePulses + 1 := by
  simp [advanceTick, h, hd]

/-- Every other tick advances the divider (R29). -/
theorem advanceTick_of_no_pulse {x : TimeBase} (h : x.ageStep ≠ 0) (hd : x.divider + 1 ≠ x.ageStep) :
    (advanceTick x).divider = x.divider + 1 ∧ (advanceTick x).agePulses = x.agePulses := by
  simp [advanceTick, h, hd]

theorem takeAgePulse_desc (s : State) (d : DescNo) : (takeAgePulse s).desc d = agedDescriptor (s.desc d) :=
  Table.look_mapAll ..

/-- Settles O9: a tick is the expiries in turn and one advance of the time base, and an age pulse ages descriptor by
descriptor. -/
theorem tickAndAgePulse : Obligations.TickAndAgePulse := by
  refine ⟨fun s hs => ?_, fun s hp => ?_⟩
  · exact ⟨takeExpiries s, { takeExpiries s with time := advanceTick s.time }, takeExpiries_inTurn s,
      takeExpiries_not_due s, takeExpiries_of_not_due, congrArg Host.Outcome.next (takeTick_eq hs), rfl, rfl, rfl,
      advanceTick_tickCounter s.time, rfl, rfl, rfl, advanceTick_of_ageStep_zero, advanceTick_of_pulse,
      advanceTick_of_no_pulse⟩
  · have taken : agePulsePeriod s = takeAgePulse s := if_pos hp
    refine ⟨takeAgePulse s, congrArg Host.Outcome.next taken, fun d hd => ?_, fun d hd => ?_, rfl⟩
    · rw [takeAgePulse_desc, agedDescriptor, if_pos hd]
    · rw [takeAgePulse_desc, agedDescriptor, if_neg hd]

/-! ### The first age pulse (R29) -/

/-- Before the age-step is reached, each tick advances the divider by 1 and nothing is produced. -/
theorem iterate_advanceTick_before (x : TimeBase) {n m : Nat} (h : m < n) :
    (advanceTick^[m] { x with ageStep := n, divider := 0 }).ageStep = n ∧
      (advanceTick^[m] { x with ageStep := n, divider := 0 }).divider = m ∧
      (advanceTick^[m] { x with ageStep := n, divider := 0 }).agePulses = x.agePulses := by
  induction m with
  | zero => exact ⟨rfl, rfl, rfl⟩
  | succ m ih =>
    obtain ⟨hs, hd, hp⟩ := ih (by omega)
    rw [Function.iterate_succ_apply']
    obtain ⟨kd, kp⟩ := advanceTick_of_no_pulse (x := advanceTick^[m] { x with ageStep := n, divider := 0 })
      (by rw [hs]; omega) (by rw [hs, hd]; omega)
    exact ⟨hs, by rw [kd, hd], by rw [kp, hp]⟩

/-- The tick that reaches the age-step produces the pulse. -/
theorem iterate_advanceTick_pulse (x : TimeBase) {n : Nat} (h : 1 ≤ n) :
    (advanceTick^[n] { x with ageStep := n, divider := 0 }).divider = 0 ∧
      (advanceTick^[n] { x with ageStep := n, divider := 0 }).agePulses = x.agePulses + 1 := by
  obtain ⟨m, rfl⟩ : ∃ m, n = m + 1 := ⟨n - 1, by omega⟩
  obtain ⟨hs, hd, hp⟩ := iterate_advanceTick_before x (Nat.lt_succ_self m)
  obtain ⟨kd, kp⟩ := advanceTick_of_pulse (by rw [hs]; omega) (by rw [hs, hd])
  rw [Function.iterate_succ_apply']
  exact ⟨kd, by rw [kp, hp]⟩

/-- A run takes the next step and goes on from there. -/
theorem run_succ (M : Host.Core) {s t : M.State} (h : M.step s = .next t) (m : Nat) : M.run (m + 1) s = M.run m t := by
  simp only [Host.Core.run, h]

theorem core_run_succ {s t : State} (h : step s = .next t) (m : Nat) :
    Host.Core.run Sys2Proof.core (m + 1) s = Host.Core.run Sys2Proof.core m t :=
  run_succ Sys2Proof.core h m

theorem takeTick_pending (s : State) : (takeTick s).pending = s.pending := by
  cases h : s.host.resetLow with
  | true => rw [takeTick_low h]
  | false => rw [takeTick_eq h]; dsimp only; rw [(takeExpiries_linkFrame s).pending]

/-- Ticks one after another advance the time base as often, whatever expiries are due. -/
theorem run_ticks {m : Nat} {s : State} (hs : s.host.resetLow = false) (hp : s.pending = List.replicate m .tick) :
    ∃ t : State, Host.Core.run Sys2Proof.core m s = .next t ∧ t.time = advanceTick^[m] s.time := by
  induction m generalizing s with
  | zero => exact ⟨s, rfl, rfl⟩
  | succ m ih =>
    have ticked : step s = .next (takeTick { s with pending := List.replicate m .tick }) := by
      rw [step, hp, List.replicate_succ]
      rfl
    have eq := takeTick_eq (s := { s with pending := List.replicate m .tick }) hs
    obtain ⟨t, ht, htime⟩ := ih (s := takeTick { s with pending := List.replicate m .tick })
      (by rw [takeTick_host]; exact hs) (takeTick_pending _)
    refine ⟨t, (core_run_succ ticked m).trans ht, ?_⟩
    rw [htime, eq, Function.iterate_succ_apply]

/-- A write of the age-step, and then ticks: the time base advances from divider 0. -/
theorem run_ageStep_then_ticks (m : Nat) (n : Byte) {s : State} (hs : s.host.resetLow = false) :
    ∃ t : State, Host.Core.run Sys2Proof.core (m + 1)
        { s with pending := .configurationWrite 0x2D n :: List.replicate m .tick } = .next t ∧
      t.time = advanceTick^[m] { s.time with ageStep := n.toNat, divider := 0 } := by
  let rest : State := { s with pending := List.replicate m .tick }
  have written : step { s with pending := .configurationWrite 0x2D n :: List.replicate m .tick } =
      .next (Setting.ageStep.assign n.toNat rest) :=
    congrArg Host.Outcome.next (hostWrite_high (s := rest) hs)
  obtain ⟨t, ht, htime⟩ := run_ticks (s := Setting.ageStep.assign n.toNat rest) hs rfl
  exact ⟨t, (core_run_succ written m).trans ht, htime⟩

/-- Settles O10: the time base runs through the ticks alone, so the run shows what its iteration shows. -/
theorem firstAgePulseComesAtTheNthTick : Obligations.FirstAgePulseComesAtTheNthTick := by
  refine ⟨fun x n hn => ⟨fun m hm => ?_, (iterate_advanceTick_pulse x hn).symm⟩, fun s n hn hs => ⟨fun m hm => ?_, ?_⟩⟩
  · exact (iterate_advanceTick_before x hm).2.2
  · obtain ⟨t, ht, htime⟩ := run_ageStep_then_ticks m n hs
    exact ⟨t, ht, by rw [htime]; exact (iterate_advanceTick_before s.time hm).2.2⟩
  · obtain ⟨t, ht, htime⟩ := run_ageStep_then_ticks n.toNat n hs
    exact ⟨t, ht, by rw [htime]; exact (iterate_advanceTick_pulse s.time hn).2⟩

end Sys2Proof.Steps
end

section
/-! PROOFS. The reads of the register window: the latched low bytes, and what every other address reads (section
11.5). -/

namespace Sys2Proof.Steps

open Sys2Proof.Machine Sys2Proof.Safety Sys2Proof.Statement

/-! ### The views behind the counts -/

theorem inboundHold_eq_holdOf (L : Link) (s : State) : s.inboundHold L = holdOf L s := by
  have entry (e : EntryNo) : entryHold L (s.context e) =
      (s.context e).elim 0 fun c => if c.link = L then (blocksOf c).length else 0 := by
    cases s.context e <;> rfl
  simp only [State.inboundHold, entry]
  rfl

theorem contextCount_eq_contextsOf (L : Link) (s : State) : s.contextCount L = contextsOf L s := by
  rw [State.contextCount, State.entriesOfLink, ← List.countP_eq_length_filter, contextsOf]
  refine List.countP_congr fun e _ => ?_
  rw [entryOfLink_iff, decide_eq_true_eq]

theorem freeCount_eq (s : State) :
    s.freeCount = if s.host.device = .initialising then 512 else s.pool.freeList.length := by
  unfold State.freeCount
  cases s.host.device <;> rfl

theorem freeDescriptors_eq (s : State) :
    s.freeDescriptors = (List.finRange 96).countP fun d => (s.desc d).state = .free := by
  refine List.countP_congr fun d _ => ?_
  rw [beq_iff_eq, decide_eq_true_eq]

theorem onOff_eq (b : Bool) : onOff b = BitVec.ofNat 8 (if b = true then 1 else 0) := by cases b <;> rfl

theorem outcomeCode_eq (o : CommandOutcome) :
    o.code = BitVec.ofNat 8 (match o with
      | .ok => 0 | .none => 1 | .busy => 2 | .state => 3 | .badParam => 4 | .noResource => 5 | .noRoom => 6
      | .notReady => 7 | .unknown => 8) := by cases o <;> rfl

theorem linkStateCode_eq (x : LinkState) :
    x.code = BitVec.ofNat 8 (match x with | .off => 0 | .run => 1 | .stopping => 2) := by cases x <;> rfl

/-! ### Addresses that read 00h (R179) -/

theorem readGlobal_unassigned (s : State) {a : Nat}
    (h : (0x08 ≤ a ∧ a ≤ 0x0F) ∨ a = 0x27 ∨ 0x39 ≤ a) : readGlobal s a = 0 := by
  unfold readGlobal
  split <;> simp at h ⊢

theorem readLinkPage_unassigned (s : State) (L : Link) {a : Nat} (h : 0x5F ≤ a) : readLinkPage s L a = 0 := by
  unfold readLinkPage
  split <;> simp at h ⊢

theorem windowRead_unassigned (s : State) {a : BitVec 7}
    (h : (0x08 ≤ a.toNat ∧ a.toNat ≤ 0x0F) ∨ a = 0x27 ∨ (0x39 ≤ a.toNat ∧ a.toNat ≤ 0x3F) ∨ 0x5F ≤ a.toNat) :
    windowRead s a = 0 := by
  have port : a = 0x27 → a.toNat = 0x27 := fun k => by rw [k]; rfl
  have h := h.imp_right (Or.imp_left port)
  unfold windowRead
  split
  · exact readGlobal_unassigned s (by omega)
  · exact readLinkPage_unassigned s _ (by omega)

/-! ### The statement -/

/-- Settles O47: the latched reads by the effect of each row, and every other address by its row of the map. -/
theorem lowByteReadsLatchTheRest : Obligations.LowByteReadsLatchTheRest := by
  refine ⟨fun s hs => ?_, fun s => ?_⟩
  · have read (value : State → Byte) (effect : State → State) :
        Host.Outcome.next (φ := Fault) (ρ := Refusal) (hostRead value effect s) =
          .next (driveBus (value s) (effect s)) :=
      congrArg _ (hostRead_high hs)
    refine ⟨read _ _, ?_, ?_, read _ _⟩
    · rw [← freeCount_eq]; exact read _ _
    · rw [← inboundHold_eq_holdOf]; exact read _ _
  · refine ⟨⟨rfl, rfl, rfl, rfl, rfl, rfl⟩, outcomeCode_eq _, ⟨rfl, rfl, rfl, rfl, rfl⟩,
      ⟨rfl, rfl, rfl, ?_, ?_, rfl, rfl⟩, ⟨rfl, rfl, rfl, rfl, rfl, onOff_eq _⟩, linkStateCode_eq _,
      ⟨rfl, onOff_eq _, rfl, rfl, rfl, ?_, rfl, rfl, ?_, rfl, rfl⟩,
      ⟨rfl, rfl, rfl, rfl, onOff_eq _, rfl, rfl, rfl, rfl⟩, ⟨rfl, rfl, rfl, rfl, rfl, rfl, rfl, rfl, onOff_eq _⟩,
      fun a h => windowRead_unassigned s h, fun M => ⟨inboundHold_eq_holdOf M s, contextCount_eq_contextsOf M s⟩⟩
    · rw [← freeCount_eq]; rfl
    · rw [← freeDescriptors_eq]; rfl
    · rw [← contextCount_eq_contextsOf]; rfl
    · rw [← inboundHold_eq_holdOf]; rfl

end Sys2Proof.Steps
end

section
/-! PROOFS. The part held in reset stays in its reset state, and the part stays quiet while it initialises (R188,
R190). -/

namespace Sys2Proof.Steps

open Sys2Proof.Machine Sys2Proof.Safety Sys2Proof.Statement

/-! ### The two ways to be calm -/

/-- The part is in its reset state with the RESET line low. -/
def Held (s : State) : Prop := s = deviceReset true s

/-- No link is on, no context and no message exists, nothing is queued or served, and no flag is set. -/
structure Quiet (s : State) : Prop where
  links : ∀ L, (s.port L).state = .off
  contexts : ∀ e, s.context e = none
  descriptors : ∀ d, s.desc d = .cleared
  ready : ∀ L, s.ready L = []
  service : s.arbiter.service = .empty
  composing : s.compose.descriptor = none
  notices : s.notices.records = []
  flags : s.arbiter.overread = false ∧ s.compose.stalled = false ∧ s.compose.overlong = false

/-- The RESET line is high, and the part is quiet if it initialises. -/
structure RunsQuiet (s : State) : Prop where
  resetHigh : s.host.resetLow = false
  quiet : s.host.device = .initialising → Quiet s

theorem quietWhileInitialising_iff {s : State} :
    QuietWhileInitialising s ↔ (s.host.device = .initialising → Quiet s) := by
  constructor
  · rintro ⟨h₁, h₂, h₃, h₄, h₅, h₆, h₇, h₈⟩ hd
    exact ⟨h₁ hd, h₂ hd, h₃ hd, h₄ hd, h₅ hd, h₆ hd, h₇ hd, h₈ hd⟩
  · intro h
    exact ⟨fun hd => (h hd).links, fun hd => (h hd).contexts, fun hd => (h hd).descriptors, fun hd => (h hd).ready,
      fun hd => (h hd).service, fun hd => (h hd).composing, fun hd => (h hd).notices, fun hd => (h hd).flags⟩

theorem deviceReset_quiet (low : Bool) (s : State) : Quiet (deviceReset low s) where
  links L := by rw [deviceReset_port]; rfl
  contexts e := deviceReset_context low s e
  descriptors d := deviceReset_desc low s d
  ready L := deviceReset_ready low s L
  service := rfl
  composing := rfl
  notices := rfl
  flags := ⟨rfl, rfl, rfl⟩

theorem Held.resetLow {s : State} (h : Held s) : s.host.resetLow = true := by rw [h]; rfl

theorem Held.quiet {s : State} (h : Held s) : Quiet s := by rw [h]; exact deviceReset_quiet true s

/-- The two invariants together say that the part is held in reset or runs quiet. -/
theorem held_or_runsQuiet_iff {s : State} :
    Held s ∨ RunsQuiet s ↔ HeldInReset s ∧ QuietWhileInitialising s := by
  rw [quietWhileInitialising_iff]
  constructor
  · rintro (h | h)
    · exact ⟨fun _ => h, fun _ => h.quiet⟩
    · exact ⟨fun hl => absurd (h.resetHigh.symm.trans hl) (by decide), h.quiet⟩
  · rintro ⟨h, k⟩
    cases hl : s.host.resetLow with
    | true => exact .inl (h hl)
    | false => exact .inr ⟨hl, k⟩

/-! ### Events of a quiet part -/

theorem Quiet.setPort {s : State} (h : Quiet s) {L : Link} {p : LinkPort} (hp : p.state = (s.port L).state) :
    Quiet (s.setPort L p) :=
  { h with
    links := fun M => by
      rw [State.setPort_port]
      split
      · exact hp.trans (h.links L)
      · exact h.links M }

theorem quiet_of_receiverOnly {L : Link} {s t : State} (k : ReceiverOnly L s t) (h : Quiet s) : Quiet t := by
  obtain ⟨q, rfl, hq⟩ := k
  exact h.setPort hq.state

theorem SettingOnly.quiet {s t : State} (k : SettingOnly s t) (h : Quiet s) : Quiet t where
  links L := (k.link L).trans (h.links L)
  contexts e := (k.context e).trans (h.contexts e)
  descriptors d := (k.desc d).trans (h.descriptors d)
  ready L := (k.ready L).trans (h.ready L)
  service := k.service.1.trans h.service
  composing := k.compose ▸ h.composing
  notices := k.notices ▸ h.notices
  flags := ⟨k.service.2.trans h.flags.1, k.compose ▸ h.flags.2⟩

theorem Quiet.not_due {s : State} (h : Quiet s) : ¬ Due s := by
  rw [due_iff]
  rintro (⟨e, he⟩ | ⟨d, hw, -⟩)
  · simp [ContextDue, h.contexts e] at he
  · rw [h.descriptors d] at hw; exact cleared_not_waiting hw

theorem Quiet.lifetimeExpiry {s : State} (h : Quiet s) (e : EntryNo) : lifetimeExpiry e s = s := by
  simp [Machine.lifetimeExpiry, h.contexts e]

theorem Quiet.ackWaitExpiry {s : State} (h : Quiet s) (d : DescNo) : ackWaitExpiry d s = s := by
  simp [Machine.ackWaitExpiry, State.waitDue, h.descriptors d, Descriptor.cleared]

theorem Quiet.backoffExpiry {s : State} (h : Quiet s) (d : DescNo) : backoffExpiry d s = s := by
  simp [Machine.backoffExpiry, State.waitDue, h.descriptors d, Descriptor.cleared]

theorem Quiet.takeTick {s : State} (h : Quiet s) : Quiet (takeTick s) := by
  cases hl : s.host.resetLow with
  | true => rwa [takeTick_low hl]
  | false => rw [takeTick_eq hl, takeExpiries_of_not_due h.not_due]; exact { h with }

theorem Quiet.agePulsePeriod {s : State} (h : Quiet s) : Quiet (agePulsePeriod s) := by
  unfold Machine.agePulsePeriod
  split
  · exact { h with descriptors := fun d => by rw [takeAgePulse_desc, h.descriptors d]; rfl }
  · exact h

/-- A message without a tag matches no frame. -/
theorem Quiet.matching {s : State} (h : Quiet s) (L : Link) (origin : Byte) (tag : Tag) :
    s.matching L origin tag = none :=
  matching_eq_none.2 fun d _ ⟨_, ht⟩ => by simp [h.descriptors d, Descriptor.cleared] at ht

theorem Quiet.count {s : State} (h : Quiet s) (L : Link) (c : CounterName) : Quiet (count L c s) := h.setPort rfl

theorem Quiet.clearHandedOver {s : State} (h : Quiet s) (L : Link) : Quiet (clearHandedOver L s) := h.setPort rfl

theorem Quiet.takeHandedFragment {s : State} (h : Quiet s) (L : Link) : Quiet (takeHandedFragment L s) := by
  unfold Machine.takeHandedFragment
  split
  · rw [if_neg (by simp [h.links L])]; exact h
  · exact h

theorem Quiet.takeHandedAck {s : State} (h : Quiet s) (L : Link) : Quiet (takeHandedAck L s) := by
  unfold Machine.takeHandedAck takeAck
  split
  · simp only [(h.clearHandedOver L).matching]
    exact (h.clearHandedOver L).count L _
  · exact h

theorem Quiet.takeHandedRefuse {s : State} (h : Quiet s) (L : Link) : Quiet (takeHandedRefuse L s) := by
  unfold Machine.takeHandedRefuse takeRefuse
  split
  · simp only [(h.clearHandedOver L).matching]
    exact (h.clearHandedOver L).count L _
  · exact h

theorem Quiet.takeHandedOver {s : State} (h : Quiet s) (L : Link) : Quiet (takeHandedOver L s) :=
  ((h.takeHandedFragment L).takeHandedAck L).takeHandedRefuse L

theorem Quiet.takeFrameStart {s : State} (h : Quiet s) (L : Link) : takeFrameStart L s = s :=
  if_neg fun k => by simp [h.links L] at k

/-- A frame that was on the line leaves it without a message that it belongs to. -/
theorem Quiet.endFrame {s : State} (h : Quiet s) (L : Link) : Quiet (endFrame L s) := by
  have gap : Quiet (enterGap L s) := h.setPort rfl
  have reported : Quiet (reportFrameEnd L (enterGap L s)) := by
    unfold reportFrameEnd
    split
    · rw [if_neg (by simp [gap.descriptors _, Descriptor.cleared])]
      exact { gap with }
    · exact { gap with }
  simp only [Machine.endFrame]
  rw [if_neg (by simp [reported.links L])]
  exact reported

theorem Quiet.frameEnded {s : State} (h : Quiet s) (L : Link) :
    Quiet (if (s.port L).transmitter = .active then Machine.endFrame L s else s) := by
  split
  · exact h.endFrame L
  · exact h

theorem Quiet.gapEnded {s : State} (h : Quiet s) (L : Link) :
    Quiet (if (s.port L).transmitter = .gap ∧ s.host.resetLow = false then enterIdle L s else s) := by
  split
  · exact h.setPort rfl
  · exact h

theorem Quiet.transmitterPeriod {s : State} (h : Quiet s) (L : Link) : Quiet (transmitterPeriod L s) := by
  unfold Machine.transmitterPeriod
  split
  · unfold sendPeriod
    split
    · exact h.setPort rfl
    · exact h.endFrame L
  · unfold measureGap
    split <;> exact h.setPort rfl
  · rwa [h.takeFrameStart L]

theorem Quiet.handOffPeriod {s : State} (h : Quiet s) (L : Link) : Quiet (handOffPeriod L s) := by
  unfold Machine.handOffPeriod
  split
  · exact h
  · split
    · exact h.setPort rfl
    · exact h.takeHandedOver L

theorem Quiet.finishFrame {s : State} (h : Quiet s) (L : Link) : Quiet (finishFrame L s) := by
  unfold Machine.finishFrame
  split
  · exact quiet_of_receiverOnly (completeFrame_receiverOnly L _) (h.takeHandedOver L)
  · exact h

theorem Quiet.concludeFrame {s : State} (h : Quiet s) (L : Link) : Quiet (concludeFrame L s) :=
  quiet_of_receiverOnly (discardOversized_receiverOnly L _) (h.finishFrame L)

theorem Quiet.receiveCharacter {s : State} (h : Quiet s) (L : Link) (b : Byte) : Quiet (receiveCharacter L b s) :=
  quiet_of_receiverOnly (hearCharacter_receiverOnly L b _) (h.concludeFrame L)

theorem Quiet.receiveError {s : State} (h : Quiet s) (L : Link) : Quiet (receiveError L s) :=
  quiet_of_receiverOnly (hearError_receiverOnly L _) (h.concludeFrame L)

theorem Quiet.receiverPeriod {s : State} (h : Quiet s) (L : Link) : Quiet (receiverPeriod L s) := by
  have sampled (x : Sampler) : Quiet (s.setPort L { s.port L with sampleCount := 0, sampler := x }) := h.setPort rfl
  unfold Machine.receiverPeriod
  split
  · exact h.setPort rfl
  · simp only [sampleReceiver]
    refine Quiet.concludeFrame ?_ L
    split
    · exact quiet_of_receiverOnly (countIdle_receiverOnly L _) (sampled _)
    · unfold takeLineEvent
      split
      · exact (sampled _).receiveCharacter L _
      · exact (sampled _).receiveError L
      · exact sampled _

theorem Quiet.linkPeriods {s : State} (h : Quiet s) : Quiet (linkPeriods s) := by
  have one (L : Link) {t : State} (ht : Quiet t) : Quiet (linkPeriod L t) :=
    ((ht.transmitterPeriod L).handOffPeriod L).receiverPeriod L
  exact one 3 (one 2 (one 1 (one 0 h)))

/-! ### Running quiet -/

/-- What keeps the device state and the RESET line, and keeps an initialising part quiet, keeps a part running quiet. -/
theorem RunsQuiet.of_host {s t : State} (h : RunsQuiet s) (hd : t.host.device = s.host.device)
    (hr : t.host.resetLow = s.host.resetLow) (k : s.host.device = .initialising → Quiet s → Quiet t) : RunsQuiet t :=
  ⟨hr.trans h.resetHigh, fun ht => k (hd.symm.trans ht) (h.quiet (hd.symm.trans ht))⟩

theorem RunsQuiet.of_evolves {s t : State} (h : RunsQuiet s) (e : Evolves s t) (k : Quiet s → Quiet t) : RunsQuiet t :=
  h.of_host e.device e.resetLow fun _ => k

/-- What an event does that leaves a quiet part as it is. -/
theorem RunsQuiet.of_same {s t : State} (h : RunsQuiet s) (e : Evolves s t) (k : Quiet s → t = s) : RunsQuiet t :=
  h.of_evolves e fun hq => by rwa [k hq]

/-- The host port, the pool, the pins and the queue play no part. -/
theorem RunsQuiet.of_host_part {s : State} (h : RunsQuiet s) {x : HostPort} (hd : x.device = s.host.device)
    (hr : x.resetLow = s.host.resetLow) : RunsQuiet { s with host := x } :=
  h.of_host hd hr fun _ hq => { hq with }

theorem deviceReset_runsQuiet (s : State) : RunsQuiet (deviceReset false s) :=
  ⟨rfl, fun _ => deviceReset_quiet false s⟩

theorem RunsQuiet.takeTick {s : State} (h : RunsQuiet s) : RunsQuiet (takeTick s) :=
  h.of_host (by rw [takeTick_host]) (by rw [takeTick_host]) fun _ => Quiet.takeTick

theorem RunsQuiet.countPeriod {s : State} (h : RunsQuiet s) : RunsQuiet (countPeriod s) := by
  unfold Machine.countPeriod
  split
  · exact h.of_host rfl rfl fun _ hq => { hq with }
  · exact h.takeTick

theorem finishRebuild_runsQuiet {s : State} (h : s.host.resetLow = false) : RunsQuiet (finishRebuild s) := ⟨h, nofun⟩

theorem RunsQuiet.placeBlock {s : State} (h : RunsQuiet s) : RunsQuiet (placeBlock s) := by
  unfold Machine.placeBlock
  split
  · split
    · exact h.of_host rfl rfl fun _ hq => { hq with }
    · exact finishRebuild_runsQuiet h.resetHigh
  · exact h

theorem RunsQuiet.rebuilt {s : State} (h : RunsQuiet s) : RunsQuiet (if s.rebuilding then finishRebuild s else s) := by
  split
  · exact finishRebuild_runsQuiet h.resetHigh
  · exact h

/-! ### Commands and accesses of a part that runs quiet -/

/-- A command during initialisation is only answered; in READY its own rule keeps READY. -/
theorem RunsQuiet.issueCommand {s : State} (h : RunsQuiet s) (code : Byte) {body : State → State × CommandOutcome}
    (hb : Evolves s (body s).1) : RunsQuiet (issueCommand code body s) := by
  cases hd : s.host.device with
  | initialising => rw [issueCommand_initialising h.resetHigh hd]; exact h.of_host_part rfl rfl
  | ready =>
    rw [issueCommand_operational ⟨hd, h.resetHigh⟩]
    exact ⟨hb.resetLow.trans h.resetHigh, fun hi => nomatch hd.symm.trans (hb.device.symm.trans hi)⟩

theorem RunsQuiet.commandDeviceReset {s : State} (h : RunsQuiet s) : RunsQuiet (commandDeviceReset s) := by
  rw [Machine.commandDeviceReset, hostWrite_high h.resetHigh]
  split
  · exact h.of_host_part rfl rfl
  · exact deviceReset_runsQuiet s

theorem RunsQuiet.writeCommandRegister {s : State} (h : RunsQuiet s) (code : Byte) :
    RunsQuiet (writeCommandRegister code s) := by
  unfold Machine.writeCommandRegister
  split
  · exact h.issueCommand code (linkStartBody_evolves s)
  · exact h.issueCommand code (linkStopBody_evolves s)
  · exact h.issueCommand code (linkResetBody_evolves s)
  · exact h.issueCommand code (takeBody_evolves s)
  · exact h.issueCommand code (takeAnyBody_evolves s)
  · exact h.issueCommand code (releaseBody_evolves s)
  · exact h.issueCommand code (requeueBody_evolves s)
  · exact h.issueCommand code (composeOpenBody_evolves s)
  · exact h.issueCommand code (composeSubmitBody_evolves s)
  · exact h.issueCommand code (composeCancelBody_evolves s)
  · exact h.issueCommand code (outWithdrawBody_evolves s)
  · exact h.issueCommand code (noticeClearOverflowBody_evolves s)
  · exact h.issueCommand code (countersClearBody_evolves s)
  · exact h.issueCommand code (clearFlagsBody_evolves s)
  · exact h.commandDeviceReset
  · exact h.issueCommand code (.refl s)

theorem RunsQuiet.hostWrite {effect : State → State} {s : State} (h : RunsQuiet s) (k : RunsQuiet (effect s)) :
    RunsQuiet (hostWrite effect s) := by rwa [hostWrite_high h.resetHigh]

theorem RunsQuiet.of_settingOnly {s t : State} (h : RunsQuiet s) (k : SettingOnly s t) : RunsQuiet t :=
  h.of_host (by rw [k.host]) (by rw [k.host]) fun _ => k.quiet

theorem RunsQuiet.rejectWrite {s : State} (h : RunsQuiet s) : RunsQuiet (rejectWrite s) := h.of_host_part rfl rfl

theorem RunsQuiet.writeLinkSelect {s : State} (h : RunsQuiet s) (v : Byte) : RunsQuiet (writeLinkSelect v s) := by
  unfold Machine.writeLinkSelect
  split
  · exact h.of_host_part rfl rfl
  · exact h.rejectWrite

theorem RunsQuiet.writeCursorLow {s : State} (h : RunsQuiet s) (v : Byte) : RunsQuiet (writeCursorLow v s) :=
  h.of_host rfl rfl fun _ hq => { hq with }

theorem RunsQuiet.writeCursorHigh {s : State} (h : RunsQuiet s) (v : Byte) : RunsQuiet (writeCursorHigh v s) :=
  have e := writeCursorHigh_evolves v s
  h.of_host e.device e.resetLow fun hd hq => by simpa only [Machine.writeCursorHigh, hd] using hq

theorem RunsQuiet.writeComposePort {s : State} (h : RunsQuiet s) (v : Byte) : RunsQuiet (writeComposePort v s) :=
  have e := writeComposePort_evolves v s
  h.of_host e.device e.resetLow fun hd hq => by simpa only [Machine.writeComposePort, hd] using hq

theorem RunsQuiet.writeCeilingHigh {s : State} (h : RunsQuiet s) (v : Byte) : RunsQuiet (writeCeilingHigh v s) := by
  unfold Machine.writeCeilingHigh writeCeiling
  split
  · exact h.of_settingOnly (ceiling_settingOnly _ _ s)
  · exact h.rejectWrite

theorem RunsQuiet.windowWrite {s : State} (h : RunsQuiet s) (a : BitVec 7) (v : Byte) :
    RunsQuiet (windowWrite a v s) := by
  unfold Machine.windowWrite
  split
  · exact h.writeCommandRegister v
  · exact h.writeLinkSelect v
  · exact h.of_host_part rfl rfl
  · exact h.of_host_part rfl rfl
  · exact h.of_host_part rfl rfl
  · exact h.writeCursorLow v
  · exact h.writeCursorHigh v
  · exact h.writeComposePort v
  · exact h.of_host_part rfl rfl
  · exact h.writeCeilingHigh v
  · split
    · unfold writeSetting
      split
      · exact h.of_settingOnly (assign_settingOnly _ _ s)
      · exact h.rejectWrite
    · exact h

theorem RunsQuiet.hostRead {value : State → Byte} {effect : State → State} {s : State} (h : RunsQuiet s)
    (k : RunsQuiet (effect s)) : RunsQuiet (hostRead value effect s) := by
  rw [hostRead_high h.resetHigh]
  exact k.of_host_part rfl rfl

/-- The read data port does nothing during initialisation (R125). -/
theorem RunsQuiet.readDataPort {s : State} (h : RunsQuiet s) : RunsQuiet (readDataPort s) :=
  have e := readDataPort_evolves s
  h.of_host e.device e.resetLow fun hd hq => by simpa only [Machine.readDataPort, hd] using hq

theorem RunsQuiet.latchCursor {s : State} (h : RunsQuiet s) : RunsQuiet (latchCursor s) :=
  h.of_host rfl rfl fun _ hq => { hq with }
theorem RunsQuiet.latchWriteCount {s : State} (h : RunsQuiet s) : RunsQuiet (latchWriteCount s) :=
  h.of_host rfl rfl fun _ hq => { hq with }
theorem RunsQuiet.latchTickCounter {s : State} (h : RunsQuiet s) : RunsQuiet (latchTickCounter s) :=
  h.of_host rfl rfl fun _ hq => { hq with }
theorem RunsQuiet.latchFreeCount {s : State} (h : RunsQuiet s) : RunsQuiet (latchFreeCount s) :=
  h.of_host rfl rfl fun _ hq => { hq with }
theorem RunsQuiet.latchInboundHold {s : State} (h : RunsQuiet s) : RunsQuiet (latchInboundHold s) :=
  h.of_host rfl rfl fun _ hq => { hq with }

theorem RunsQuiet.readEffect {s : State} (h : RunsQuiet s) (a : BitVec 7) : RunsQuiet (readEffect a s) := by
  generalize he : Machine.readEffect a = effect
  unfold Machine.readEffect at he
  split at he <;> subst he
  · exact h.readDataPort
  · exact h.latchCursor
  · exact h.latchWriteCount
  · exact h.latchTickCounter
  · exact h.latchFreeCount
  · exact h.latchInboundHold
  · exact h

theorem RunsQuiet.busPeriod {s : State} (h : RunsQuiet s) : RunsQuiet (busPeriod s) := by
  have written : RunsQuiet (if writeEnds s.inputs s.inputs.next then
      takeWrite s.inputs.next.address s.inputs.next.data s else s) := by
    split
    · exact h.hostWrite (h.windowWrite _ _)
    · exact h
  have driven {t : State} (ht : RunsQuiet t) : RunsQuiet (driveData s.inputs s.inputs.next t) := by
    unfold driveData
    split
    · exact ht.hostRead (ht.readEffect _)
    · split
      · exact ht
      · exact ht.of_host_part rfl rfl
  exact (driven written).of_host rfl rfl fun _ hq => { hq with }

theorem RunsQuiet.clockPeriod {s : State} (h : RunsQuiet s) : RunsQuiet (clockPeriod s) := by
  have placed := ((h.busPeriod.countPeriod).of_evolves (agePulsePeriod_evolves _) Quiet.agePulsePeriod).placeBlock
  simp only [Machine.clockPeriod]
  rw [if_neg (by simp [h.busPeriod.resetHigh])]
  exact placed.of_evolves (linkPeriods_evolve _) Quiet.linkPeriods

/-! ### The part held in reset -/

/-- The state with another queue, other data lines and other pins. -/
def withWorld (q : List Instr) (x : Option Byte) (i : Inputs) (s : State) : State :=
  { s with pending := q, host := { s.host with dataBus := x }, inputs := i }

/-- The queue, the data lines and the pins are not part of the reset state. -/
theorem Held.with_world {s : State} (h : Held s) (q : List Instr) (x : Option Byte) (i : Inputs) :
    Held (withWorld q x i s) :=
  congrArg (withWorld q x i) h

theorem Held.port {s : State} (h : Held s) (L : Link) : s.port L = .reset := by rw [h, deviceReset_port]

theorem Held.receiving {s : State} (h : Held s) (L : Link) (p : RxProgress) : s.receiving L p = false := by
  simp [State.receiving, h.port L, LinkPort.reset]

theorem Held.concludeFrame {s : State} (h : Held s) (L : Link) : concludeFrame L s = s :=
  concludeFrame_of_not (h.receiving L _) (h.receiving L _)

theorem Held.receiveCharacter {s : State} (h : Held s) (L : Link) (b : Byte) : receiveCharacter L b s = s := by
  simp [Machine.receiveCharacter, h.concludeFrame, hearCharacter, h.port L, LinkPort.reset]

theorem Held.receiveError {s : State} (h : Held s) (L : Link) : receiveError L s = s := by
  simp [Machine.receiveError, h.concludeFrame, hearError, h.port L, LinkPort.reset]

theorem Held.commandDeviceReset {s : State} (h : Held s) : commandDeviceReset s = s := hostWrite_low h.resetLow

theorem Held.writeCommandRegister {s : State} (h : Held s) (code : Byte) : writeCommandRegister code s = s := by
  unfold Machine.writeCommandRegister
  split <;> first | exact h.commandDeviceReset | exact issueCommand_resetLow h.resetLow

theorem Held.hostRead {s : State} (h : Held s) (value : State → Byte) (effect : State → State) :
    Held (hostRead value effect s) := by
  rw [hostRead_low h.resetLow]
  exact h.with_world s.pending _ s.inputs

theorem Held.busPeriod {s : State} (h : Held s) : Held (busPeriod s) := by
  have written : (if writeEnds s.inputs s.inputs.next then takeWrite s.inputs.next.address s.inputs.next.data s else s)
      = s := by
    split
    · exact hostWrite_low h.resetLow
    · rfl
  have driven : Held (driveData s.inputs s.inputs.next s) := by
    unfold driveData
    split
    · exact h.hostRead _ _
    · split
      · exact h
      · exact h.with_world s.pending none s.inputs
  simp only [Machine.busPeriod, written]
  exact driven.with_world _ _ _

theorem Held.clockPeriod {s : State} (h : Held s) : Held (clockPeriod s) := by
  simp only [Machine.clockPeriod]
  rw [if_pos h.busPeriod.resetLow]
  exact h.busPeriod

/-! ### Every command and every step -/

theorem resetLineLow_held (s : State) : Held (voidAccess (deviceReset true s)) :=
  Held.with_world (s := deviceReset true s) rfl _ _ _

/-- A part held in reset stays so, but for a rise of the RESET line: no event has a cause, no write is taken, and a read
only drives its value. -/
theorem exec_held (c : Instr) {s : State} (h : Held s) : ∃ t, exec c s = .next t ∧ (Held t ∨ RunsQuiet t) := by
  have low := h.resetLow
  have quiet := h.quiet
  have port := h.port
  have same {t : State} (e : t = s) : Held t ∨ RunsQuiet t := .inl (e ▸ h)
  have ignored (effect : State → State) : Held (hostWrite effect s) ∨ RunsQuiet (hostWrite effect s) :=
    same (hostWrite_low low)
  have idle (code : Byte) (body : State → State × CommandOutcome) :
      Held (issueCommand code body s) ∨ RunsQuiet (issueCommand code body s) := same (issueCommand_resetLow low)
  have noFrame (L : Link) : (s.port L).handedOver = none := by rw [port]; rfl
  exact match c with
  | .resetLineLow => ⟨_, rfl, .inl (resetLineLow_held s)⟩
  | .resetLineHigh => ⟨_, rfl, .inr ⟨rfl, fun _ => { quiet with }⟩⟩
  | .freeListRebuilt => ⟨_, rfl, same (if_neg (by simp [State.rebuilding, low]))⟩
  | .tick => ⟨_, rfl, same (takeTick_low low)⟩
  | .agePulse => ⟨_, rfl, same (if_neg (by rw [h]; exact Nat.lt_irrefl 0))⟩
  | .contextLifetimeExpiry e => ⟨_, rfl, same (quiet.lifetimeExpiry e)⟩
  | .acknowledgementWaitExpiry d => ⟨_, rfl, same (quiet.ackWaitExpiry d)⟩
  | .refuseBackoffExpiry d => ⟨_, rfl, same (quiet.backoffExpiry d)⟩
  | .settlingGapEnd L => ⟨_, rfl, same (if_neg (by rw [port]; decide))⟩
  | .rxFrameComplete L => ⟨_, rfl, same (finishFrame_of_not (h.receiving L _))⟩
  | .truncation L => ⟨_, rfl, same (if_neg (by simp [h.receiving]))⟩
  | .characterError L => ⟨_, rfl, same (h.receiveError L)⟩
  | .oversizedPayloadLength L => ⟨_, rfl, same (if_neg (by simp [h.receiving]))⟩
  | .fragment L => ⟨_, rfl, same (by simp [takeHandedFragment, noFrame])⟩
  | .ackReceived L => ⟨_, rfl, same (by simp [takeHandedAck, noFrame])⟩
  | .refuseReceived L => ⟨_, rfl, same (by simp [takeHandedRefuse, noFrame])⟩
  | .frameStart L => ⟨_, rfl, same (quiet.takeFrameStart L)⟩
  | .frameEnd L => ⟨_, rfl, same (if_neg (by rw [port]; decide))⟩
  | .txGapEnd L => ⟨_, rfl, same (if_neg (by simp [low]))⟩
  | .linkStart | .linkStop | .linkReset | .take | .takeAny | .release | .requeue | .composeOpen | .composeSubmit
  | .composeCancel | .outWithdraw | .noticeClearOverflow | .countersClear | .clearFlags => ⟨_, rfl, idle _ _⟩
  | .deviceReset => ⟨_, rfl, same h.commandDeviceReset⟩
  | .unknownCommand code => ⟨_, rfl, same (h.writeCommandRegister code)⟩
  | .readDataPortRead | .readCursorLowRead | .tickCounterLowRead | .freeCountLowRead | .inboundHoldLowRead
  | .writeCountLowRead => ⟨_, rfl, .inl (h.hostRead _ _)⟩
  | .readCursorLowWrite _ | .readCursorHighWrite _ | .composeDataPortWrite _ | .ceilingLowWrite _ | .ceilingHighWrite _
  | .linkSelectWrite _ | .configurationWrite _ _ => ⟨_, rfl, ignored _⟩
  | .characterReceived L b => ⟨_, rfl, same (h.receiveCharacter L b)⟩

/-- A part that runs quiet goes on so, but for a fall of the RESET line. -/
theorem exec_runsQuiet (c : Instr) {s : State} (h : RunsQuiet s) :
    ∃ t, exec c s = .next t ∧ (Held t ∨ RunsQuiet t) := by
  have event {t : State} (e : Evolves s t) (k : Quiet s → Quiet t) : Held t ∨ RunsQuiet t := .inr (h.of_evolves e k)
  have still {t : State} (e : Evolves s t) (k : Quiet s → t = s) : Held t ∨ RunsQuiet t := .inr (h.of_same e k)
  exact match c with
  | .resetLineLow => ⟨_, rfl, .inl (resetLineLow_held s)⟩
  | .resetLineHigh => ⟨_, rfl, .inr ⟨rfl, fun hd => { h.quiet hd with }⟩⟩
  | .freeListRebuilt => ⟨_, rfl, .inr h.rebuilt⟩
  | .tick => ⟨_, rfl, .inr h.takeTick⟩
  | .agePulse => ⟨_, rfl, event (agePulsePeriod_evolves s) Quiet.agePulsePeriod⟩
  | .contextLifetimeExpiry e => ⟨_, rfl, still (lifetimeExpiry_evolves e s) (·.lifetimeExpiry e)⟩
  | .acknowledgementWaitExpiry d => ⟨_, rfl, still (ackWaitExpiry_evolves d s) (·.ackWaitExpiry d)⟩
  | .refuseBackoffExpiry d => ⟨_, rfl, still (backoffExpiry_evolves d s) (·.backoffExpiry d)⟩
  | .settlingGapEnd L =>
    ⟨_, rfl, event (endSettling_evolves L s) (quiet_of_receiverOnly (endSettling_receiverOnly L s))⟩
  | .rxFrameComplete L => ⟨_, rfl, event (finishFrame_evolves L s) (·.finishFrame L)⟩
  | .truncation L =>
    ⟨_, rfl, event (truncateFrame_evolves L s) (quiet_of_receiverOnly (truncateFrame_receiverOnly L s))⟩
  | .characterError L => ⟨_, rfl, event (receiveError_evolves L s) (·.receiveError L)⟩
  | .oversizedPayloadLength L =>
    ⟨_, rfl, event (discardOversized_evolves L s) (quiet_of_receiverOnly (discardOversized_receiverOnly L s))⟩
  | .fragment L => ⟨_, rfl, event (takeHandedFragment_evolves L s) (·.takeHandedFragment L)⟩
  | .ackReceived L => ⟨_, rfl, event (takeHandedAck_evolves L s) (·.takeHandedAck L)⟩
  | .refuseReceived L => ⟨_, rfl, event (takeHandedRefuse_evolves L s) (·.takeHandedRefuse L)⟩
  | .frameStart L => ⟨_, rfl, still (takeFrameStart_evolves L s) (·.takeFrameStart L)⟩
  | .frameEnd L => ⟨_, rfl, event (frameEnded_evolves L s) (·.frameEnded L)⟩
  | .txGapEnd L => ⟨_, rfl, event (gapEnded_evolves L s) (·.gapEnded L)⟩
  | .linkStart => ⟨_, rfl, .inr (h.issueCommand _ (linkStartBody_evolves s))⟩
  | .linkStop => ⟨_, rfl, .inr (h.issueCommand _ (linkStopBody_evolves s))⟩
  | .linkReset => ⟨_, rfl, .inr (h.issueCommand _ (linkResetBody_evolves s))⟩
  | .take => ⟨_, rfl, .inr (h.issueCommand _ (takeBody_evolves s))⟩
  | .takeAny => ⟨_, rfl, .inr (h.issueCommand _ (takeAnyBody_evolves s))⟩
  | .release => ⟨_, rfl, .inr (h.issueCommand _ (releaseBody_evolves s))⟩
  | .requeue => ⟨_, rfl, .inr (h.issueCommand _ (requeueBody_evolves s))⟩
  | .composeOpen => ⟨_, rfl, .inr (h.issueCommand _ (composeOpenBody_evolves s))⟩
  | .composeSubmit => ⟨_, rfl, .inr (h.issueCommand _ (composeSubmitBody_evolves s))⟩
  | .composeCancel => ⟨_, rfl, .inr (h.issueCommand _ (composeCancelBody_evolves s))⟩
  | .outWithdraw => ⟨_, rfl, .inr (h.issueCommand _ (outWithdrawBody_evolves s))⟩
  | .noticeClearOverflow => ⟨_, rfl, .inr (h.issueCommand _ (noticeClearOverflowBody_evolves s))⟩
  | .countersClear => ⟨_, rfl, .inr (h.issueCommand _ (countersClearBody_evolves s))⟩
  | .clearFlags => ⟨_, rfl, .inr (h.issueCommand _ (clearFlagsBody_evolves s))⟩
  | .deviceReset => ⟨_, rfl, .inr h.commandDeviceReset⟩
  | .unknownCommand code => ⟨_, rfl, .inr (h.writeCommandRegister code)⟩
  | .readDataPortRead => ⟨_, rfl, .inr (h.hostRead h.readDataPort)⟩
  | .readCursorLowWrite v => ⟨_, rfl, .inr (h.hostWrite (h.writeCursorLow v))⟩
  | .readCursorHighWrite v => ⟨_, rfl, .inr (h.hostWrite (h.writeCursorHigh v))⟩
  | .readCursorLowRead => ⟨_, rfl, .inr (h.hostRead h.latchCursor)⟩
  | .composeDataPortWrite v => ⟨_, rfl, .inr (h.hostWrite (h.writeComposePort v))⟩
  | .tickCounterLowRead => ⟨_, rfl, .inr (h.hostRead h.latchTickCounter)⟩
  | .freeCountLowRead => ⟨_, rfl, .inr (h.hostRead h.latchFreeCount)⟩
  | .inboundHoldLowRead => ⟨_, rfl, .inr (h.hostRead h.latchInboundHold)⟩
  | .writeCountLowRead => ⟨_, rfl, .inr (h.hostRead h.latchWriteCount)⟩
  | .ceilingLowWrite _ => ⟨_, rfl, .inr (h.hostWrite (h.of_host_part rfl rfl))⟩
  | .ceilingHighWrite v => ⟨_, rfl, .inr (h.hostWrite (h.writeCeilingHigh v))⟩
  | .linkSelectWrite v => ⟨_, rfl, .inr (h.hostWrite (h.writeLinkSelect v))⟩
  | .configurationWrite a v => ⟨_, rfl, .inr (h.hostWrite (h.windowWrite a v))⟩
  | .characterReceived L b => ⟨_, rfl, event (receiveCharacter_evolves L b s) (·.receiveCharacter L b)⟩

/-- Settles O60: a part that is held in reset or runs quiet is so after every step. -/
theorem everyStepKeepsResetAndInitialisationQuiet : Obligations.EveryStepKeepsResetAndInitialisationQuiet := by
  intro s t hr hq h
  rw [← held_or_runsQuiet_iff]
  have calm := held_or_runsQuiet_iff.2 ⟨hr, hq⟩
  unfold step at h
  split at h
  · cases h
    exact calm.imp Held.clockPeriod RunsQuiet.clockPeriod
  · next c rest _ =>
    have taken : ∃ u, exec c { s with pending := rest } = .next u ∧ (Held u ∨ RunsQuiet u) := by
      obtain held | runs := calm
      · exact exec_held c (held.with_world rest s.host.dataBus s.inputs)
      · exact exec_runsQuiet c (runs.of_host rfl rfl fun _ k => { k with })
    obtain ⟨u, hu, k⟩ := taken
    obtain rfl : u = t := by rw [hu] at h; exact Host.Outcome.next.inj h
    exact k

end Sys2Proof.Steps
end

section
/-! PROOFS. The holders of a descriptor, and the invariant of the holders as a statement about one descriptor at a
time. -/

namespace Sys2Proof.Steps

open Sys2Proof.Machine Sys2Proof.Safety Sys2Proof.Statement

/-! ### The holders of a descriptor (R49) -/

/-- Every record that names a descriptor, but for the line records: the entries of the context table, each with the link
of its context, how often the queues of each link name it, and the service and compose contexts. -/
@[ext] structure Holders where
  entry : EntryNo → Option Link := fun _ => none
  ready : Link → Nat := 0
  queued : Link → Nat := 0
  outstanding : Link → Nat := 0
  resend : Link → Nat := 0
  service : Prop := False
  composing : Prop := False

/-- The link of the context in an entry, when the context names descriptor `d`. -/
def namedBy (d : DescNo) (c : Option Context) : Option Link :=
  c.bind fun c => if c.descriptor = d then some c.link else none

/-- The holders of descriptor `d`. -/
def holders (s : State) (d : DescNo) : Holders where
  entry e := namedBy d (s.context e)
  ready L := (s.ready L).count d
  queued L := (s.sch L).outboundQueue.count d
  outstanding L := (s.sch L).outstanding.count d
  resend L := (s.sch L).resendOrder.count d
  service := s.serviceDescriptor = some d
  composing := s.compose.descriptor = some d

/-- The holders are exactly those that the state of the descriptor calls for (R47, R49, R54, R144). -/
def Fits (x : Descriptor) (h : Holders) : Prop :=
  match x.state with
  | .free => h = {} ∧ x = .cleared
  | .assembling => ∃ e, h = { entry := Function.update (fun _ => none) e (some x.link) }
  | .ready => h = { ready := Pi.single x.link 1 }
  | .service => h = { service := True }
  | .composing => h = { composing := True }
  | .queued => h = { queued := Pi.single x.link 1 }
  | .sending | .awaitAck | .backoff => h = { outstanding := Pi.single x.link 1 }
  | .resend => h = { outstanding := Pi.single x.link 1, resend := Pi.single x.link 1 }

/-- A line record that names a message names a SENDING one of its link (R144, R148). -/
def LineSound (s : State) : Prop :=
  ∀ L n d, (s.sch L).lineRecord = some ⟨n, some d⟩ → (s.desc d).state = .sending ∧ (s.desc d).link = L

/-- A link has at most one SENDING message (R145). -/
def SendingOnce (s : State) : Prop :=
  ∀ d d', (s.desc d).state = .sending → (s.desc d').state = .sending → (s.desc d).link = (s.desc d').link → d = d'

theorem namedBy_eq_some {d : DescNo} {c : Option Context} {L : Link} :
    namedBy d c = some L ↔ ∃ x, c = some x ∧ x.descriptor = d ∧ x.link = L := by
  cases c with
  | none => simp [namedBy]
  | some x => simp [namedBy]

@[simp] theorem namedBy_none (d : DescNo) : namedBy d none = none := rfl

theorem namedBy_self (c : Context) : namedBy c.descriptor (some c) = some c.link := by simp [namedBy]

theorem namedBy_of_ne {d : DescNo} {c : Context} (h : d ≠ c.descriptor) : namedBy d (some c) = none := by
  simp [namedBy, h.symm]

/-- The number of times that a link's queue names a descriptor of the link given, when it is in the state for that
queue. -/
def once (L : Link) (p : Bool) : Link → Nat := if p then Pi.single L 1 else 0

theorem once_ne_zero {L M : Link} {p : Bool} : once L p M ≠ 0 ↔ p = true ∧ L = M := by
  cases p with
  | false => simp [once]
  | true => simp [once, Pi.single_apply, eq_comm]

theorem once_le_one (L M : Link) (p : Bool) : once L p M ≤ 1 := by
  unfold once
  split
  · rw [Pi.single_apply]; split <;> decide
  · exact Nat.zero_le 1

/-- The entries that name a descriptor: one of its link while it is ASSEMBLING, and else none. -/
def EntryFits (x : Descriptor) (entry : EntryNo → Option Link) : Prop :=
  if x.state = .assembling then ∃ e, entry = Function.update (fun _ => none) e (some x.link) else entry = fun _ => none

/-- The holders that a state calls for, one kind of record at a time. -/
theorem fits_iff {x : Descriptor} {h : Holders} :
    Fits x h ↔ EntryFits x h.entry ∧
      h.ready = once x.link (x.state == .ready) ∧ h.queued = once x.link (x.state == .queued) ∧
      h.outstanding = once x.link (outstandingState x.state) ∧ h.resend = once x.link (x.state == .resend) ∧
      (h.service ↔ x.state = .service) ∧ (h.composing ↔ x.state = .composing) ∧
      (x.state = .free → x = .cleared) := by
  unfold Fits EntryFits
  cases x.state <;> simp [Holders.ext_iff, once, outstandingState]
  tauto

/-- How often the queues of the links name a descriptor of link `M`, when only those of its own link do and none does
twice. -/
theorem count_eq_once {q : Link → List DescNo} {d : DescNo} {M : Link} {p : Bool} (nodup : ∀ L, (q L).Nodup)
    (named : ∀ L, d ∈ q L → p = true ∧ M = L) (held : p = true → d ∈ q M) : (fun L => (q L).count d) = once M p := by
  funext L
  by_cases h : d ∈ q L
  · obtain ⟨rfl, rfl⟩ := named L h
    simp [once, List.count_eq_one_of_mem (nodup _) h]
  · have : ¬ (p = true ∧ M = L) := by
      rintro ⟨hp, rfl⟩
      exact h (held hp)
    rw [List.count_eq_zero_of_not_mem h]
    by_contra hn
    exact this (once_ne_zero.1 (Ne.symm hn))

theorem mem_iff_of_count {q : Link → List DescNo} {d : DescNo} {M L : Link} {p : Bool}
    (h : (fun L => (q L).count d) = once M p) : d ∈ q L ↔ p = true ∧ M = L := by
  rw [← once_ne_zero, ← congrFun h L, Nat.ne_zero_iff_zero_lt, List.count_pos_iff]

theorem nodup_of_count {q : Link → List DescNo} (M : DescNo → Link) (p : DescNo → Bool)
    (h : ∀ d, (fun L => (q L).count d) = once (M d) (p d)) (L : Link) : (q L).Nodup :=
  List.nodup_iff_count_le_one.2 fun d => congrFun (h d) L ▸ once_le_one ..

theorem EntryFits.of_some {x : Descriptor} {entry : EntryNo → Option Link} (h : EntryFits x entry) {e : EntryNo}
    {L : Link} (he : entry e = some L) : x.state = .assembling ∧ x.link = L ∧ ∀ i, entry i ≠ none → i = e := by
  unfold EntryFits at h
  split at h
  · next hs =>
    obtain ⟨e', rfl⟩ := h
    obtain rfl : e = e' := by
      by_contra hne
      simp [hne] at he
    refine ⟨hs, by simpa using he, fun i hi => ?_⟩
    by_contra hne
    simp [hne] at hi
  · rw [h] at he; cases he

theorem entryFits {s : State} (h : HoldersSound s) (d : DescNo) : EntryFits (s.desc d) (holders s d).entry := by
  unfold EntryFits
  split
  · next hs =>
    obtain ⟨e, c, he, rfl⟩ := h.assemblingHeld d hs
    refine ⟨e, funext fun i => ?_⟩
    rw [Function.update_apply]
    split
    · next hi => exact hi ▸ (congrArg _ he).trans ((namedBy_self c).trans (by rw [(h.context e c he).2]))
    · next hi =>
      refine Option.eq_none_iff_forall_ne_some.2 fun M hM => hi ?_
      obtain ⟨c', hc', hd, -⟩ := namedBy_eq_some.1 hM
      exact h.contextOnce i e c' c hc' he hd
  · next hs =>
    refine funext fun i => Option.eq_none_iff_forall_ne_some.2 fun M hM => hs ?_
    obtain ⟨c, hc, rfl, -⟩ := namedBy_eq_some.1 hM
    exact (h.context i c hc).1

/-- The invariant, one descriptor at a time. -/
theorem holdersSound_iff {s : State} :
    HoldersSound s ↔ (∀ d, Fits (s.desc d) (holders s d)) ∧ LineSound s ∧ SendingOnce s := by
  constructor
  · intro h
    refine ⟨fun d => fits_iff.2 ⟨entryFits h d, ?_, ?_, ?_, ?_, ?_, ?_, h.freeCleared d⟩, h.line, h.sendingOnce⟩
    · exact count_eq_once h.readyOnce (by simpa using fun L => h.ready L d) (by simpa using h.readyHeld d)
    · exact count_eq_once h.queuedOnce (by simpa using fun L => h.queued L d) (by simpa using h.queuedHeld d)
    · exact count_eq_once h.outstandingOnce (fun L => h.outstanding L d) (h.outstandingHeld d)
    · exact count_eq_once h.resendOnce (by simpa using fun L => h.resend L d) (by simpa using h.resendHeld d)
    · exact ⟨h.service d, h.serviceHeld d⟩
    · exact ⟨h.composing d, h.composingHeld d⟩
  · rintro ⟨fits, line, sending⟩
    have fits d := fits_iff.1 (fits d)
    choose entry ready queued outstanding resend service composing cleared using fits
    have named {e : EntryNo} {c : Context} (he : s.context e = some c) :
        (holders s c.descriptor).entry e = some c.link := (congrArg _ he).trans (namedBy_self c)
    exact
      { context := fun e c he => ⟨((entry _).of_some (named he)).1, ((entry _).of_some (named he)).2.1⟩
        contextOnce := fun e e' c c' he he' hd =>
          ((entry _).of_some (named he')).2.2 e (by rw [← hd, named he]; exact nofun)
        ready := fun L d hd => by simpa using (mem_iff_of_count (ready d)).1 hd
        readyOnce := nodup_of_count _ _ ready
        service := fun d => (service d).1
        composing := fun d => (composing d).1
        queued := fun L d hd => by simpa using (mem_iff_of_count (queued d)).1 hd
        queuedOnce := nodup_of_count _ _ queued
        outstanding := fun L d => (mem_iff_of_count (outstanding d)).1
        outstandingOnce := nodup_of_count _ _ outstanding
        resend := fun L d hd => by simpa using (mem_iff_of_count (resend d)).1 hd
        resendOnce := nodup_of_count _ _ resend
        assemblingHeld := fun d hs => by
          obtain ⟨e, he⟩ := (if_pos hs).mp (entry d)
          obtain ⟨c, hc, hd, -⟩ := namedBy_eq_some.1 ((congrFun he e).trans (Function.update_self ..))
          exact ⟨e, c, hc, hd⟩
        readyHeld := fun d hs => (mem_iff_of_count (ready d)).2 ⟨by simpa using hs, rfl⟩
        serviceHeld := fun d => (service d).2
        composingHeld := fun d => (composing d).2
        queuedHeld := fun d hs => (mem_iff_of_count (queued d)).2 ⟨by simpa using hs, rfl⟩
        outstandingHeld := fun d hs => (mem_iff_of_count (outstanding d)).2 ⟨hs, rfl⟩
        resendHeld := fun d hs => (mem_iff_of_count (resend d)).2 ⟨by simpa using hs, rfl⟩
        freeCleared := cleared
        sendingOnce := sending
        line := line }

end Sys2Proof.Steps
end

section
/-! PROOFS. The invariant of the holders after each operation that moves a message from one record to another (R49, R54,
R144). -/

namespace Sys2Proof.Steps

open Sys2Proof.Machine Sys2Proof.Safety Sys2Proof.Statement

/-! ### The holders after a replaced part -/

section

variable (s : State) (d i : DescNo)

@[simp] theorem holders_setDesc (x : Descriptor) : holders (s.setDesc i x) d = holders s d := rfl
@[simp] theorem holders_returnBlocks (bs : List BlockNo) : holders (returnBlocks bs s) d = holders s d := rfl

theorem holders_setContext (e : EntryNo) (c : Option Context) :
    holders (s.setContext e c) d =
      { holders s d with entry := Function.update (holders s d).entry e (namedBy d c) } := by
  refine Holders.ext (funext fun j => ?_) rfl rfl rfl rfl rfl rfl
  simp only [holders, State.setContext_context, Function.update_apply]
  split <;> rfl

theorem holders_setReady (L : Link) (q : List DescNo) :
    holders (s.setReady L q) d =
      { holders s d with ready := Function.update (holders s d).ready L (q.count d) } := by
  refine Holders.ext rfl (funext fun M => ?_) rfl rfl rfl rfl rfl
  simp only [holders, State.setReady_ready, Function.update_apply]
  split <;> rfl

theorem holders_setSch (L : Link) (y : Scheduler) :
    holders (s.setSch L y) d =
      { holders s d with
        queued := Function.update (holders s d).queued L (y.outboundQueue.count d)
        outstanding := Function.update (holders s d).outstanding L (y.outstanding.count d)
        resend := Function.update (holders s d).resend L (y.resendOrder.count d) } := by
  refine Holders.ext rfl rfl (funext fun M => ?_) (funext fun M => ?_) (funext fun M => ?_) rfl rfl <;>
    simp only [holders, State.setSch_sch, Function.update_apply] <;> split <;> rfl

variable {s d}

theorem holders_setContext_of_same {e : EntryNo} {c : Option Context} (h : namedBy d c = namedBy d (s.context e)) :
    holders (s.setContext e c) d = holders s d := by
  rw [holders_setContext, h, show namedBy d (s.context e) = (holders s d).entry e from rfl, Function.update_eq_self]

theorem holders_setReady_of_same {L : Link} {q : List DescNo} (h : q.count d = (s.ready L).count d) :
    holders (s.setReady L q) d = holders s d := by
  rw [holders_setReady, h, show (s.ready L).count d = (holders s d).ready L from rfl, Function.update_eq_self]

/-- The lists of a scheduler name the descriptor as often as those of another. -/
def SameLists (d : DescNo) (x y : Scheduler) : Prop :=
  y.outboundQueue.count d = x.outboundQueue.count d ∧ y.outstanding.count d = x.outstanding.count d ∧
    y.resendOrder.count d = x.resendOrder.count d

theorem holders_setSch_of_same {L : Link} {y : Scheduler} (h : SameLists d (s.sch L) y) :
    holders (s.setSch L y) d = holders s d := by
  obtain ⟨hq, ho, hr⟩ := h
  rw [holders_setSch, hq, ho, hr, show (s.sch L).outboundQueue.count d = (holders s d).queued L from rfl,
    show (s.sch L).outstanding.count d = (holders s d).outstanding L from rfl,
    show (s.sch L).resendOrder.count d = (holders s d).resend L from rfl]
  simp only [Function.update_eq_self]

end

/-! ### The invariant after a change of one descriptor -/

/-- A descriptor that keeps what its holders depend on. -/
structure SameRole (x y : Descriptor) : Prop where
  state : y.state = x.state
  link : y.link = x.link
  free : x.state = .free → y = x

theorem SameRole.refl (x : Descriptor) : SameRole x x := ⟨rfl, rfl, fun _ => rfl⟩

theorem Fits.of_sameRole {x y : Descriptor} {h : Holders} (k : Fits x h) (r : SameRole x y) : Fits y h := by
  obtain ⟨he, hr, hq, ho, hs, hv, hc, hf⟩ := fits_iff.1 k
  rw [fits_iff, EntryFits, r.state, r.link]
  exact ⟨he, hr, hq, ho, hs, hv, hc, fun hx => (r.free hx).trans (hf hx)⟩

theorem fits_of_sound {s : State} (h : HoldersSound s) (d : DescNo) : Fits (s.desc d) (holders s d) :=
  (holdersSound_iff.1 h).1 d

/-- What keeps every role and every holder keeps the invariant. -/
theorem holdersSound_of_same {s t : State} (h : HoldersSound s) (role : ∀ d, SameRole (s.desc d) (t.desc d))
    (held : ∀ d, holders t d = holders s d)
    (line : ∀ L n d, (t.sch L).lineRecord = some ⟨n, some d⟩ →
      (s.sch L).lineRecord = some ⟨n, some d⟩ ∨ (s.desc d).state = .sending ∧ (s.desc d).link = L) :
    HoldersSound t := by
  refine holdersSound_iff.2 ⟨fun d => ?_, fun L n d hl => ?_, fun d d' hd hd' hl => ?_⟩
  · rw [held]; exact (fits_of_sound h d).of_sameRole (role d)
  · rw [(role d).state, (role d).link]
    exact (line L n d hl).elim (h.line L n d) id
  · rw [(role _).state] at hd hd'
    rw [(role _).link, (role _).link] at hl
    exact h.sendingOnce d d' hd hd' hl

/-- A change of one descriptor and its holders keeps the invariant when the holders fit it again. -/
theorem holdersSound_of_one {s t : State} {d : DescNo} (h : HoldersSound s)
    (desc : ∀ i, i ≠ d → t.desc i = s.desc i) (held : ∀ i, i ≠ d → holders t i = holders s i)
    (fits : Fits (t.desc d) (holders t d))
    (line : ∀ L n i, (t.sch L).lineRecord = some ⟨n, some i⟩ →
      i ≠ d ∧ (s.sch L).lineRecord = some ⟨n, some i⟩)
    (sending : (t.desc d).state = .sending → ∀ i, (s.desc i).state = .sending → (s.desc i).link ≠ (t.desc d).link) :
    HoldersSound t := by
  refine holdersSound_iff.2 ⟨fun i => ?_, fun L n i hl => ?_, fun i j hi hj hl => ?_⟩
  · by_cases hi : i = d
    · exact hi ▸ fits
    · rw [desc i hi, held i hi]; exact fits_of_sound h i
  · obtain ⟨hi, hs⟩ := line L n i hl
    rw [desc i hi]; exact h.line L n i hs
  · by_cases hid : i = d <;> by_cases hjd : j = d
    · rw [hid, hjd]
    · subst hid; rw [desc j hjd] at hj hl; exact absurd hl.symm (sending hi j hj)
    · subst hjd; rw [desc i hid] at hi hl; exact absurd hl (sending hj i hi)
    · rw [desc i hid] at hi hl; rw [desc j hjd] at hj hl; exact h.sendingOnce i j hi hj hl

/-- The same for a descriptor that is not SENDING before or after, when no line record changes. -/
theorem holdersSound_of_unsent {s t : State} {d : DescNo} (h : HoldersSound s)
    (desc : ∀ i, i ≠ d → t.desc i = s.desc i) (held : ∀ i, i ≠ d → holders t i = holders s i)
    (fits : Fits (t.desc d) (holders t d)) (line : ∀ L, (t.sch L).lineRecord = (s.sch L).lineRecord)
    (before : (s.desc d).state ≠ .sending) (after : (t.desc d).state ≠ .sending) : HoldersSound t := by
  refine holdersSound_of_one h desc held fits (fun L n i hl => ?_) fun hs => absurd hs after
  rw [line] at hl
  exact ⟨fun hi => before (hi ▸ (h.line L n i hl).1), hl⟩

/-! ### Contexts -/

/-- The one holder of the descriptor of a context. -/
theorem holders_of_context {s : State} (h : HoldersSound s) {e : EntryNo} {c : Context} (hc : s.context e = some c) :
    holders s c.descriptor = { entry := Function.update (fun _ => none) e (some c.link) } := by
  obtain ⟨hs, hl⟩ := h.context e c hc
  have fits := fits_of_sound h c.descriptor
  simp only [Fits, hs, hl] at fits
  obtain ⟨e', he⟩ := fits
  have : (holders s c.descriptor).entry e = some c.link := (congrArg _ hc).trans (namedBy_self c)
  obtain rfl : e = e' := by
    by_contra hne
    rw [he] at this
    simp [hne] at this
  exact he

theorem abandonContext_holdersSound {s : State} (h : HoldersSound s) (e : EntryNo) :
    HoldersSound (abandonContext e s) := by
  cases hc : s.context e with
  | none => rwa [abandonContext_of_none hc]
  | some c =>
    have held := holders_of_context h hc
    rw [abandonContext_eq hc]
    refine holdersSound_of_unsent (d := c.descriptor) h (fun i hi => ?_) (fun i hi => ?_) ?_ (fun _ => rfl) ?_ ?_
    · simp [State.setDesc_desc, hi]
    · exact holders_setContext_of_same (by simp [hc, namedBy_of_ne hi])
    · simp [Fits, holders_setContext, held, Descriptor.cleared]
    · simp [(h.context e c hc).1]
    · simp [Descriptor.cleared]

/-- A context is created for a FREE descriptor in a FREE entry (R50, R72). -/
theorem openContext_holdersSound {s : State} (h : HoldersSound s) {e : EntryNo} {c : Context} {x : Descriptor}
    (he : s.context e = none) (hd : (s.desc c.descriptor).state = .free) (hx : x.state = .assembling)
    (hl : x.link = c.link) : HoldersSound ((s.setDesc c.descriptor x).setContext e (some c)) := by
  have held := fits_of_sound h c.descriptor
  simp only [Fits, hd] at held
  refine holdersSound_of_unsent (d := c.descriptor) h (fun i hi => ?_) (fun i hi => ?_) ?_ (fun _ => rfl) ?_ ?_
  · simp [State.setDesc_desc, hi]
  · exact holders_setContext_of_same (by simp [namedBy_of_ne hi, he])
  · simp only [State.setContext_desc, State.setDesc_desc_self, Fits, hx]
    exact ⟨e, by simp [holders_setContext, held.1, namedBy_self, hl]⟩
  · simp [hd]
  · simp [hx]

/-- A context that keeps its link and its descriptor. -/
theorem setContext_holdersSound {s : State} (h : HoldersSound s) {e : EntryNo} {c c' : Context}
    (hc : s.context e = some c) (hd : c'.descriptor = c.descriptor) (hl : c'.link = c.link) :
    HoldersSound (s.setContext e (some c')) :=
  holdersSound_of_same h (fun _ => .refl _)
    (fun d => holders_setContext_of_same (by rw [hc]; simp [namedBy, hd, hl])) fun _ _ _ hl => .inl hl

/-- The message of a context becomes READY at the tail of its ready queue (R79, R80). -/
theorem closeContext_holdersSound {s : State} (h : HoldersSound s) {e : EntryNo} {c : Context} {x : Descriptor}
    (hc : s.context e = some c) (hx : x.state = .ready) (hl : x.link = c.link) :
    HoldersSound
      (((s.setDesc c.descriptor x).setReady c.link (s.ready c.link ++ [c.descriptor])).setContext e none) := by
  have held := holders_of_context h hc
  have unready : (s.ready c.link).count c.descriptor = 0 := congrArg (·.ready c.link) held
  refine holdersSound_of_unsent (d := c.descriptor) h (fun i hi => ?_) (fun i hi => ?_) ?_ (fun _ => rfl) ?_ ?_
  · simp [State.setDesc_desc, hi]
  · rw [holders_setContext_of_same (by simp [hc, namedBy_of_ne hi]), holders_setReady_of_same]
    · rfl
    · simp [List.count_append, Ne.symm hi]
  · simp [Fits, holders_setContext, holders_setReady, held, hx, hl, List.count_append, unready, Pi.single]
  · simp [(h.context e c hc).1]
  · simp [hx]

/-! ### Outbound messages -/

theorem update_single_zero (L : Link) : Function.update (Pi.single L 1 : Link → Nat) L 0 = 0 := by
  simp [Pi.single]

theorem update_zero_one (L : Link) : Function.update (0 : Link → Nat) L 1 = Pi.single L 1 := rfl

theorem dropFromLine_eq_some {d i : DescNo} {r : Option LineRecord} {n : Nat}
    (h : dropFromLine d r = some ⟨n, some i⟩) : i ≠ d ∧ r = some ⟨n, some i⟩ := by
  obtain ⟨⟨m, j⟩, rfl, hr⟩ := Option.map_eq_some_iff.1 h
  split at hr
  · cases hr
  · next hj => cases hr; exact ⟨fun hi => hj (congrArg some hi), rfl⟩

/-- A message of link `L` changes its place in the scheduler, and its line record goes, with the message no longer
SENDING or with no other message of the link SENDING. -/
theorem outbound_holdersSound {s : State} (h : HoldersSound s) {L : Link} {d : DescNo} {x : Descriptor} {y : Scheduler}
    (hl : (s.desc d).link = L) (lists : ∀ i, i ≠ d → SameLists i (s.sch L) y)
    (fits : Fits x (holders (s.setSch L y) d))
    (line : ∀ n i, y.lineRecord = some ⟨n, some i⟩ → i ≠ d ∧ (s.sch L).lineRecord = some ⟨n, some i⟩)
    (sending : x.state = .sending → ∀ i, (s.desc i).state = .sending → (s.desc i).link ≠ x.link) :
    HoldersSound ((s.setDesc d x).setSch L y) := by
  refine holdersSound_of_one (d := d) h (fun i hi => ?_) (fun i hi => ?_) ?_ (fun M n i hr => ?_) ?_
  · simp [State.setDesc_desc, hi]
  · exact holders_setSch_of_same (s := s.setDesc d x) (lists i hi)
  · rw [State.setSch_desc, State.setDesc_desc_self]; exact fits
  · rw [State.setSch_sch] at hr
    split at hr
    · next hM => exact hM ▸ line n i hr
    · next hM => exact ⟨fun hi => hM (by rw [← (h.line M n i hr).2, hi, hl]), hr⟩
  · simpa using sending

/-- A message that is outbound and not composed: QUEUED or outstanding. -/
def Outbound (x : Descriptor) : Prop := x.state = .queued ∨ outstandingState x.state = true

/-- With its scheduler's lists rid of it, nothing holds an outbound message. -/
theorem holders_of_left {s : State} (h : HoldersSound s) {L : Link} {d : DescNo} (hd : Outbound (s.desc d))
    (hl : (s.desc d).link = L) {y : Scheduler} (hq : y.outboundQueue.count d = 0) (ho : y.outstanding.count d = 0)
    (hr : y.resendOrder.count d = 0) : holders (s.setSch L y) d = {} := by
  have fits := fits_of_sound h d
  rw [holders_setSch, hq, ho, hr]
  revert hd
  unfold Outbound
  simp only [Fits, hl] at fits
  split at fits <;> simp_all [update_single_zero, outstandingState]

theorem returnBlocks_holdersSound {s : State} (h : HoldersSound s) (bs : List BlockNo) :
    HoldersSound (returnBlocks bs s) :=
  holdersSound_of_same h (fun _ => .refl _) (fun _ => rfl) fun _ _ _ => .inl

theorem endOutbound_holdersSound {s : State} (h : HoldersSound s) {L : Link} {d : DescNo} (hd : Outbound (s.desc d))
    (hl : (s.desc d).link = L) : HoldersSound (endOutbound L d s) := by
  have gone (l : List DescNo) : (l.filter (· ≠ d)).count d = 0 := List.count_eq_zero.2 (by simp)
  have kept (i : DescNo) (hi : i ≠ d) (l : List DescNo) : (l.filter (· ≠ d)).count i = l.count i :=
    List.count_filter (by simpa using hi)
  have returned := returnBlocks_holdersSound h (s.desc d).chain
  exact outbound_holdersSound (x := .cleared) returned hl (fun i hi => ⟨kept i hi _, kept i hi _, kept i hi _⟩)
    ⟨holders_of_left returned hd hl (gone _) (gone _) (gone _), rfl⟩ (fun n i => dropFromLine_eq_some) nofun

/-- The message is SENDING, AWAIT_ACK or BACKOFF: outstanding, and not in the resend order. -/
def InAttempt (x : Descriptor) : Prop := x.state = .sending ∨ x.state = .awaitAck ∨ x.state = .backoff

theorem InAttempt.outbound {x : Descriptor} (h : InAttempt x) : Outbound x := by
  unfold InAttempt at h
  unfold Outbound
  obtain h | h | h := h <;> simp [h, outstandingState]

theorem holders_of_inAttempt {s : State} (h : HoldersSound s) {d : DescNo} (hd : InAttempt (s.desc d)) :
    holders s d = { outstanding := Pi.single (s.desc d).link 1 } := by
  have fits := fits_of_sound h d
  obtain hd | hd | hd := hd <;> simpa only [Fits, hd] using fits

/-- A message waits, for an acknowledgement or out a backoff, and its line record goes (R151, R154). -/
theorem wait_holdersSound {s : State} (h : HoldersSound s) {L : Link} {d : DescNo} {x : Descriptor} {y : Scheduler}
    (hd : InAttempt (s.desc d)) (hl : (s.desc d).link = L) (hx : Waiting x) (hxl : x.link = L)
    (lists : ∀ i, SameLists i (s.sch L) y)
    (line : ∀ n i, y.lineRecord = some ⟨n, some i⟩ → i ≠ d ∧ (s.sch L).lineRecord = some ⟨n, some i⟩) :
    HoldersSound ((s.setDesc d x).setSch L y) := by
  refine outbound_holdersSound h hl (fun i _ => lists i) ?_ line fun hs => ?_
  · rw [holders_setSch_of_same (lists d), holders_of_inAttempt h hd, hl]
    obtain hx | hx := hx <;> simp [Fits, hx, hxl]
  · obtain hx | hx := hx <;> simp [hx] at hs

theorem enterBackoff_holdersSound {s : State} (h : HoldersSound s) {L : Link} {d : DescNo}
    (hd : InAttempt (s.desc d)) (hl : (s.desc d).link = L) : HoldersSound (enterBackoff L d s) :=
  wait_holdersSound h hd hl (.inr rfl) hl (fun _ => ⟨rfl, rfl, rfl⟩) fun _ _ => dropFromLine_eq_some

/-- The last fragment of a unicast message has left the line, whose record becomes absent. -/
theorem enterAwaitAck_holdersSound {s : State} (h : HoldersSound s) {L : Link} {d : DescNo}
    (hd : InAttempt (s.desc d)) (hl : (s.desc d).link = L) : HoldersSound (clearLine L (enterAwaitAck L d s)) :=
  wait_holdersSound h hd hl (.inl rfl) hl (fun _ => ⟨rfl, rfl, rfl⟩) nofun

theorem enterResend_holdersSound {s : State} (h : HoldersSound s) {L : Link} {d : DescNo}
    (hd : InAttempt (s.desc d)) (hl : (s.desc d).link = L) : HoldersSound (enterResend L d s) := by
  have held := holders_of_inAttempt h hd
  have unqueued : (s.sch L).resendOrder.count d = 0 := congrArg (·.resend L) held
  have hq : (s.sch L).outboundQueue.count d = 0 := congrArg (·.queued L) held
  have ho : (s.sch L).outstanding.count d = 1 :=
    (congrArg (·.outstanding L) held).trans (by simp [hl])
  refine outbound_holdersSound h hl (fun i hi => ⟨rfl, rfl, ?_⟩) ?_ (fun _ _ => dropFromLine_eq_some) nofun
  · simp [List.count_append, Ne.symm hi]
  · simp [Fits, holders_setSch, held, hl, List.count_append, hq, ho, unqueued, ← update_zero_one]

/-- With no SENDING message found, no message of the link is SENDING. -/
theorem not_sending_of_sendingOf {s : State} (h : HoldersSound s) {L : Link} (hn : s.sendingOf L = none) (i : DescNo)
    (hi : (s.desc i).state = .sending) : (s.desc i).link ≠ L := fun hl =>
  sendingOf_eq_none.1 hn i (hl ▸ h.outstandingHeld i (by simp [hi, outstandingState])) hi

theorem beginResend_holdersSound {s : State} (h : HoldersSound s) {L : Link} {d : DescNo} {rest : List DescNo}
    (hn : s.sendingOf L = none) (hr : (s.sch L).resendOrder = d :: rest) : HoldersSound (beginResend L d s) := by
  obtain ⟨hs, hl⟩ := h.resend L d (by simp [hr])
  have held := fits_of_sound h d
  simp only [Fits, hs] at held
  have hq : (s.sch L).outboundQueue.count d = 0 := congrArg (·.queued L) held
  have ho : (s.sch L).outstanding.count d = 1 :=
    (congrArg (·.outstanding L) held).trans (by simp [hl])
  have once : rest.count d = 0 := by
    have := h.resendOnce L
    rw [hr, List.nodup_cons] at this
    exact List.count_eq_zero.2 this.1
  refine outbound_holdersSound h hl (fun i hi => ⟨rfl, rfl, ?_⟩) ?_ (fun n i hi => ⟨?_, hi⟩) fun _ => ?_
  · simp [hr, Ne.symm hi]
  · simp [Fits, holders_setSch, held, hl, hr, hq, ho, once, ← update_zero_one]
  · rintro rfl
    exact absurd (h.line L n i hi).1 (by simp [hs])
  · rw [show (s.desc d).link = L from hl]; exact not_sending_of_sendingOf h hn

theorem beginQueued_holdersSound {s : State} (h : HoldersSound s) {L : Link} {d : DescNo} {rest : List DescNo}
    (hn : s.sendingOf L = none) (hr : (s.sch L).outboundQueue = d :: rest) : HoldersSound (beginQueued L d s) := by
  obtain ⟨hs, hl⟩ := h.queued L d (by simp [hr])
  have held := fits_of_sound h d
  simp only [Fits, hs] at held
  have ho : (s.sch L).outstanding.count d = 0 := congrArg (·.outstanding L) held
  have hre : (s.sch L).resendOrder.count d = 0 := congrArg (·.resend L) held
  have once : rest.count d = 0 := by
    have := h.queuedOnce L
    rw [hr, List.nodup_cons] at this
    exact List.count_eq_zero.2 this.1
  refine outbound_holdersSound h hl (fun i hi => ⟨?_, ?_, rfl⟩) ?_ (fun n i hi => ⟨?_, hi⟩) fun _ => ?_
  · simp [hr, Ne.symm hi]
  · simp [List.count_append, Ne.symm hi]
  · simp [Fits, holders_setSch, held, hl, hr, hre, ho, once, List.count_append, ← update_zero_one]
  · rintro rfl
    exact absurd (h.line L n i hi).1 (by simp [hs])
  · rw [show (s.desc d).link = L from hl]; exact not_sending_of_sendingOf h hn

/-- A scheduler whose lists are kept, and whose line record names what it named or a SENDING message. -/
theorem setSch_holdersSound {s : State} (h : HoldersSound s) {L : Link} {y : Scheduler}
    (lists : ∀ i, SameLists i (s.sch L) y)
    (line : ∀ n d, y.lineRecord = some ⟨n, some d⟩ →
      (s.sch L).lineRecord = some ⟨n, some d⟩ ∨ (s.desc d).state = .sending ∧ (s.desc d).link = L) :
    HoldersSound (s.setSch L y) := by
  refine holdersSound_of_same h (fun _ => .refl _) (fun d => holders_setSch_of_same (lists d)) fun M n d hr => ?_
  rw [State.setSch_sch] at hr
  split at hr
  · next hM => subst hM; exact line n d hr
  · exact .inl hr

theorem clearLine_holdersSound {s : State} (h : HoldersSound s) (L : Link) : HoldersSound (clearLine L s) :=
  setSch_holdersSound h (fun _ => ⟨rfl, rfl, rfl⟩) nofun

theorem setLine_holdersSound {s : State} (h : HoldersSound s) {L : Link} {d : DescNo} (hs : (s.desc d).state = .sending)
    (hl : (s.desc d).link = L) (n : Nat) : HoldersSound (setLine L d n s) :=
  setSch_holdersSound h (fun _ => ⟨rfl, rfl, rfl⟩) fun _ _ hr => by cases hr; exact .inr ⟨hs, hl⟩

/-! ### The compose unit and the service context -/

/-- The holder of a descriptor in a state that one record alone belongs to. -/
theorem holders_of_free {s : State} (h : HoldersSound s) {d : DescNo} (hd : (s.desc d).state = .free) :
    holders s d = {} ∧ s.desc d = .cleared := by
  simpa only [Fits, hd] using fits_of_sound h d

theorem holders_of_composing {s : State} (h : HoldersSound s) {d : DescNo} (hd : (s.desc d).state = .composing) :
    holders s d = { composing := True } := by
  simpa only [Fits, hd] using fits_of_sound h d

theorem holders_of_service {s : State} (h : HoldersSound s) {d : DescNo} (hd : (s.desc d).state = .service) :
    holders s d = { service := True } := by
  simpa only [Fits, hd] using fits_of_sound h d

theorem holders_of_ready {s : State} (h : HoldersSound s) {d : DescNo} (hd : (s.desc d).state = .ready) :
    holders s d = { ready := Pi.single (s.desc d).link 1 } := by
  simpa only [Fits, hd] using fits_of_sound h d

theorem holders_setCompose (s : State) (x : Compose) (d : DescNo) :
    holders { s with compose := x } d = { holders s d with composing := x.descriptor = some d } := rfl

/-- The service context of another record. -/
theorem holders_serveItem (s : State) (c : ServiceContext) (d : DescNo) :
    holders (serveItem c s) d = { holders s d with service := (serveItem c s).serviceDescriptor = some d } := rfl

@[simp] theorem serveItem_desc (s : State) (c : ServiceContext) (d : DescNo) : (serveItem c s).desc d = s.desc d := rfl
@[simp] theorem emptyService_desc (s : State) (d : DescNo) : (emptyService s).desc d = s.desc d := rfl

theorem holders_emptyService (s : State) (d : DescNo) :
    holders (emptyService s) d = { holders s d with service := False } :=
  Holders.ext rfl rfl rfl rfl rfl (by simp [holders, emptyService, State.serviceDescriptor]) rfl

/-- A FREE descriptor is claimed for the closed compose context (R132). -/
theorem openCompose_holdersSound {s : State} (h : HoldersSound s) {d : DescNo} {x : Descriptor} {y : Compose}
    (hc : s.compose.descriptor = none) (hd : (s.desc d).state = .free) (hx : x.state = .composing)
    (hy : y.descriptor = some d) : HoldersSound { s.setDesc d x with compose := y } := by
  have claimed : State.desc { s.setDesc d x with compose := y } d = x := State.setDesc_desc_self ..
  refine holdersSound_of_unsent (d := d) h (fun i hi => (State.setDesc_desc ..).trans (if_neg hi)) (fun i hi => ?_) ?_
    (fun _ => rfl) ?_ ?_
  · rw [holders_setCompose, holders_setDesc]
    exact Holders.ext rfl rfl rfl rfl rfl rfl (by simp [holders, hc, hy, Ne.symm hi])
  · rw [claimed, holders_setCompose, holders_setDesc, (holders_of_free h hd).1]
    simp [Fits, hx, hy]
  · simp [hd]
  · rw [claimed, hx]; decide

/-- The compose context closes, and its message leaves it for the state given. -/
theorem closeCompose_holdersSound {s t : State} (h : HoldersSound s) {d : DescNo} {y : Compose}
    (hc : s.compose.descriptor = some d) (hy : y.descriptor = none) (desc : ∀ i, i ≠ d → t.desc i = s.desc i)
    (held : ∀ i, i ≠ d → holders t i = holders s i) (fits : Fits (t.desc d) { holders t d with composing := False })
    (line : ∀ L, (t.sch L).lineRecord = (s.sch L).lineRecord) (after : (t.desc d).state ≠ .sending) :
    HoldersSound { t with compose := y } := by
  refine holdersSound_of_unsent (d := d) h desc (fun i hi => ?_) ?_ line ?_ after
  · rw [holders_setCompose, held i hi]
    exact Holders.ext rfl rfl rfl rfl rfl rfl (by simp [holders, hc, hy, Ne.symm hi])
  · rw [holders_setCompose, hy, show ((none : Option DescNo) = some d) = False by simp]
    exact fits
  · simp [h.composing d hc]

theorem submitMessage_holdersSound {s : State} (h : HoldersSound s) {d : DescNo} (hc : s.compose.descriptor = some d) :
    HoldersSound (submitMessage d s) := by
  have held := holders_of_composing h (h.composing d hc)
  have hq : (s.sch (s.desc d).link).outboundQueue.count d = 0 := congrArg (·.queued (s.desc d).link) held
  have ho : (s.sch (s.desc d).link).outstanding.count d = 0 := congrArg (·.outstanding (s.desc d).link) held
  have hr : (s.sch (s.desc d).link).resendOrder.count d = 0 := congrArg (·.resend (s.desc d).link) held
  refine closeCompose_holdersSound h hc rfl (fun i hi => ?_) (fun i hi => ?_) ?_ (fun L => ?_) ?_
  · simp [State.setDesc_desc, hi]
  · exact holders_setSch_of_same (s := s.setDesc d _) ⟨by simp [List.count_append, Ne.symm hi], rfl, rfl⟩
  · simp [Fits, holders_setSch, held, List.count_append, hq, ho, hr, ← update_zero_one]
  · rw [State.setSch_sch]; split <;> simp_all
  · simp

/-- COMPOSE CANCEL (R140). -/
theorem cancelMessage_holdersSound {s : State} (h : HoldersSound s) {d : DescNo} {y : Compose}
    (hc : s.compose.descriptor = some d) (hy : y.descriptor = none) :
    HoldersSound { freeMessage d s with compose := y } := by
  rw [freeMessage_eq]
  refine closeCompose_holdersSound h hc hy (fun i hi => ?_) (fun i hi => rfl) ?_ (fun L => rfl) ?_
  · simp [State.setDesc_desc, hi]
  · simp [Fits, holders_of_composing h (h.composing d hc), Descriptor.cleared]
  · simp [Descriptor.cleared]

/-- The head message of a ready queue goes into the EMPTY service context (R55, R114). -/
theorem takeMessage_holdersSound {s : State} (h : HoldersSound s) {L : Link} {d : DescNo} {rest : List DescNo}
    (hr : s.ready L = d :: rest) (he : s.serviceDescriptor = none) (n : Nat) :
    HoldersSound (serveItem (.message L n d) ((s.setReady L rest).setDesc d { s.desc d with state := .service })) := by
  obtain ⟨hs, hl⟩ := h.ready L d (by simp [hr])
  have once : rest.count d = 0 := by
    have := h.readyOnce L
    rw [hr, List.nodup_cons] at this
    exact List.count_eq_zero.2 this.1
  refine holdersSound_of_unsent (d := d) h (fun i hi => ?_) (fun i hi => ?_) ?_ (fun _ => rfl) ?_ ?_
  · simp [State.setDesc_desc, hi]
  · rw [holders_serveItem, holders_setDesc, holders_setReady_of_same (by simp [hr, Ne.symm hi])]
    refine Holders.ext rfl rfl rfl rfl rfl ?_ rfl
    show (some d = some i) = (s.serviceDescriptor = some i)
    simp [he, Ne.symm hi]
  · rw [holders_serveItem, holders_setDesc, holders_setReady, holders_of_ready h hs, once, hl, update_single_zero]
    rw [serveItem_desc, State.setDesc_desc_self]
    simp [Fits, serveItem, State.serviceDescriptor]
  · simp [hs]
  · simp

/-- The message of the service context ends (R118). -/
theorem releaseMessage_holdersSound {s : State} (h : HoldersSound s) {d : DescNo} (hd : s.serviceDescriptor = some d) :
    HoldersSound (emptyService (freeMessage d s)) := by
  rw [freeMessage_eq]
  refine holdersSound_of_unsent (d := d) h (fun i hi => ?_) (fun i hi => ?_) ?_ (fun _ => rfl) ?_ ?_
  · simp [State.setDesc_desc, hi]
  · rw [holders_emptyService]
    exact Holders.ext rfl rfl rfl rfl rfl (by simp [holders, hd, Ne.symm hi]) rfl
  · rw [holders_emptyService]
    simp [Fits, holders_of_service h (h.service d hd), Descriptor.cleared]
  · simp [h.service d hd]
  · simp [Descriptor.cleared]

/-- The message of the service context goes back to the head of its ready queue (R120). -/
theorem requeueMessage_holdersSound {s : State} (h : HoldersSound s) {d : DescNo} (hd : s.serviceDescriptor = some d) :
    HoldersSound (emptyService (requeueMessage d s)) := by
  have held := holders_of_service h (h.service d hd)
  have unready : (s.ready (s.desc d).link).count d = 0 := congrArg (·.ready (s.desc d).link) held
  refine holdersSound_of_unsent (d := d) h (fun i hi => ?_) (fun i hi => ?_) ?_ (fun _ => rfl) ?_ ?_
  · simp [requeueMessage, State.setDesc_desc, hi]
  · rw [holders_emptyService, requeueMessage, holders_setReady_of_same (by simp [Ne.symm hi])]
    exact Holders.ext rfl rfl rfl rfl rfl (by simp [holders, hd, Ne.symm hi]) rfl
  · rw [holders_emptyService, requeueMessage, holders_setReady]
    simp [Fits, held, unready, ← update_zero_one]
  · simp [h.service d hd]
  · simp [requeueMessage]

/-! ### LINK RESET and device reset -/

theorem freeMessages_desc (ds : List DescNo) (s : State) (d : DescNo) :
    (freeMessages ds s).desc d = if d ∈ ds then .cleared else s.desc d := by
  induction ds generalizing s with
  | nil => simp [freeMessages]
  | cons i ds ih =>
    rw [freeMessages, ih, freeMessage_eq, State.setDesc_desc, returnBlocks_desc]
    by_cases hi : d = i <;> by_cases hd : d ∈ ds <;> simp [hi, hd]

theorem freeMessages_holders (ds : List DescNo) (s : State) (d : DescNo) :
    holders (freeMessages ds s) d = holders s d := by
  induction ds generalizing s with
  | nil => rfl
  | cons i ds ih => exact (ih _).trans rfl

theorem freeMessages_sched (ds : List DescNo) (s : State) : (freeMessages ds s).sched = s.sched := by
  induction ds generalizing s with
  | nil => rfl
  | cons i ds ih => exact (ih _).trans rfl

/-- The messages of link `L` that its reset frees (R44, R60, R166). -/
def resetMessages (L : Link) (s : State) : List DescNo :=
  s.ready L ++ (s.sch L).outboundQueue ++ s.outstandingAscending L

theorem mem_outstandingAscending {s : State} {L : Link} {d : DescNo} :
    d ∈ s.outstandingAscending L ↔ d ∈ (s.sch L).outstanding := by
  simp [State.outstandingAscending]

/-- A descriptor that is in none of the lists of link `L` is named by no more of them when they are emptied. -/
theorem holders_of_emptied {s : State} (h : HoldersSound s) {L : Link} {y : Scheduler} {d : DescNo}
    (hy : y.outboundQueue = [] ∧ y.outstanding = [] ∧ y.resendOrder = []) :
    holders ((s.setReady L []).setSch L y) d = if d ∈ resetMessages L s then {} else holders s d := by
  obtain ⟨hq, ho, hr⟩ := hy
  have unready (hs : (s.desc d).state ≠ .ready) : holders (s.setReady L []) d = holders s d :=
    holders_setReady_of_same (List.count_eq_zero.2 fun hd => hs (h.ready L d hd).1).symm
  split
  · next hd =>
    simp only [resetMessages, List.mem_append, mem_outstandingAscending, or_assoc] at hd
    obtain hd | hd := hd
    · obtain ⟨hs, hl⟩ := h.ready L d hd
      rw [holders_setSch, holders_setReady, holders_of_ready h hs, hl]
      simp [hq, ho, hr, update_single_zero]
    · have outbound : Outbound (s.desc d) ∧ (s.desc d).link = L := by
        obtain hd | hd := hd
        · exact ⟨.inl (h.queued L d hd).1, (h.queued L d hd).2⟩
        · exact ⟨.inr (h.outstanding L d hd).1, (h.outstanding L d hd).2⟩
      obtain ⟨hs, hl⟩ := outbound
      have same : holders (s.setReady L []) d = holders s d := unready fun hr => by
        simp [Outbound, hr, outstandingState] at hs
      have left := holders_of_left (y := y) h hs hl (by simp [hq]) (by simp [ho]) (by simp [hr])
      rwa [holders_setSch, same, ← holders_setSch]
  · next hd =>
    simp only [resetMessages, List.mem_append, mem_outstandingAscending, not_or] at hd
    obtain ⟨⟨hd, hdq⟩, hdo⟩ := hd
    have hdr : d ∉ (s.sch L).resendOrder := fun hm => by
      obtain ⟨hs, hl⟩ := h.resend L d hm
      exact hdo (hl ▸ h.outstandingHeld d (by simp [hs, outstandingState]))
    rw [holders_setSch_of_same (s := s.setReady L []), holders_setReady_of_same]
    · rw [List.count_eq_zero.2 hd]; rfl
    · simp [SameLists, hq, ho, hr, List.count_eq_zero.2, hdq, hdo, hdr]

/-- The messages of a link end, and its lists are emptied (R44, R60, R166). -/
theorem resetMessages_holdersSound {s t : State} (h : HoldersSound s) {L : Link}
    (desc : ∀ d, t.desc d = if d ∈ resetMessages L s then .cleared else s.desc d)
    (held : ∀ d, holders t d = if d ∈ resetMessages L s then {} else holders s d)
    (line : ∀ M, (t.sch M).lineRecord = if M = L then none else (s.sch M).lineRecord) : HoldersSound t := by
  have sent {d : DescNo} (hd : (t.desc d).state = .sending) : d ∉ resetMessages L s ∧ t.desc d = s.desc d := by
    rw [desc] at hd ⊢
    split at hd
    · cases hd
    · next hm => exact ⟨hm, if_neg hm⟩
  refine holdersSound_iff.2 ⟨fun d => ?_, fun M n d hl => ?_, fun d d' hd hd' hl => ?_⟩
  · rw [desc, held]
    split
    · exact ⟨rfl, rfl⟩
    · exact fits_of_sound h d
  · rw [line] at hl
    split at hl
    · cases hl
    · next hM =>
      obtain ⟨hs, hk⟩ := h.line M n d hl
      have : d ∉ resetMessages L s := fun hm => by
        simp only [resetMessages, List.mem_append, mem_outstandingAscending, or_assoc] at hm
        obtain hm | hm | hm := hm
        · exact hM (hk.symm.trans (h.ready L d hm).2)
        · exact hM (hk.symm.trans (h.queued L d hm).2)
        · exact hM (hk.symm.trans (h.outstanding L d hm).2)
      rw [desc, if_neg this]
      exact ⟨hs, hk⟩
  · have kept := (sent hd).2
    have kept' := (sent hd').2
    rw [kept] at hd hl
    rw [kept'] at hd' hl
    exact h.sendingOnce d d' hd hd' hl

theorem deviceReset_holders (low : Bool) (s : State) (d : DescNo) : holders (deviceReset low s) d = {} := by
  refine Holders.ext (funext fun e => congrArg (namedBy d) (deviceReset_context low s e)) (funext fun L => ?_)
    (funext fun L => ?_) (funext fun L => ?_) (funext fun L => ?_) ?_ ?_
  · exact congrArg (List.count d) (deviceReset_ready low s L)
  · exact congrArg (fun x => List.count d x.outboundQueue) (deviceReset_sch low s L)
  · exact congrArg (fun x => List.count d x.outstanding) (deviceReset_sch low s L)
  · exact congrArg (fun x => List.count d x.resendOrder) (deviceReset_sch low s L)
  · exact eq_false nofun
  · exact eq_false nofun

theorem deviceReset_holdersSound (low : Bool) (s : State) : HoldersSound (deviceReset low s) := by
  refine holdersSound_iff.2 ⟨fun d => ?_, fun L n d hl => ?_, fun d d' hd => ?_⟩
  · rw [deviceReset_desc, deviceReset_holders]; exact ⟨rfl, rfl⟩
  · rw [deviceReset_sch] at hl; cases hl
  · rw [deviceReset_desc] at hd; cases hd

end Sys2Proof.Steps
end

section
/-! PROOFS. Where the blocks are and what a link holds after a part is replaced, and what every operation keeps: the
holders, the blocks in one place each, and the inbound holds (R32, R36, R37). -/

namespace Sys2Proof.Steps

open Sys2Proof.Machine Sys2Proof.Safety Sys2Proof.Statement

/-! ### Sums over a table with one entry replaced -/

theorem sum_look_put {α : Type} {n : Nat} (g : α → Nat) (T : Table α n) (i : Fin n) (a : α) :
    ((List.finRange n).map fun j => g ((T.put i a).look j)).sum + g (T.look i) =
      ((List.finRange n).map fun j => g (T.look j)).sum + g a := by
  have others : ∑ j ∈ Finset.univ.erase i, g ((T.put i a).look j) = ∑ j ∈ Finset.univ.erase i, g (T.look j) :=
    Finset.sum_congr rfl fun j hj => by rw [Table.look_put_ne _ _ (Finset.ne_of_mem_erase hj)]
  rw [← Fin.sum_univ_def, ← Fin.sum_univ_def, ← Finset.add_sum_erase _ _ (Finset.mem_univ i),
    ← Finset.add_sum_erase _ (fun j => g (T.look j)) (Finset.mem_univ i), others, Table.look_put_self]
  omega

theorem add_left_of_add {a b b' x y : Nat} (h : b' + x = b + y) : a + b' + x = a + b + y := by omega

theorem add_right_of_add {b b' c x y : Nat} (h : b' + x = b + y) : b' + c + x = b + c + y := by omega

/-! ### The places of a block after a replaced part (R32) -/

section

variable (s : State) (b : BlockNo)

theorem placesOf_setContext (e : EntryNo) (c : Option Context) :
    placesOf (s.setContext e c) b + slotCount b (s.context e) = placesOf s b + slotCount b c :=
  add_right_of_add (add_left_of_add (sum_look_put (slotCount b) s.reasm.contexts e c))

theorem placesOf_setDesc (d : DescNo) (x : Descriptor) :
    placesOf (s.setDesc d x) b + (s.desc d).chain.count b = placesOf s b + x.chain.count b := by
  have chains := sum_look_put (fun x => x.chain.count b) s.table.descriptors d x
  beta_reduce at chains
  unfold placesOf
  exact add_left_of_add chains

theorem placesOf_setPool (p : Pool) :
    placesOf { s with pool := p } b + s.pool.freeList.count b = placesOf s b + p.freeList.count b := by
  simp only [placesOf, State.context, State.desc]
  omega

theorem placesOf_returnBlocks (bs : List BlockNo) : placesOf (returnBlocks bs s) b = placesOf s b + bs.count b := by
  have := placesOf_setPool s b (returnBlocks bs s).pool
  rw [returnBlocks_freeList, List.count_append] at this
  have same : placesOf (returnBlocks bs s) b = placesOf { s with pool := (returnBlocks bs s).pool } b := rfl
  omega

/-- A message that ends: its chain goes from it to the free list. -/
theorem placesOf_freeMessage (d : DescNo) : placesOf (freeMessage d s) b = placesOf s b := by
  have := placesOf_setDesc (returnBlocks (s.desc d).chain s) b d .cleared
  rw [placesOf_returnBlocks, returnBlocks_desc] at this
  rw [freeMessage_eq]
  simp only [Descriptor.cleared, List.count_nil] at this ⊢
  omega

end

/-! ### The inbound hold after a replaced part (R36) -/

section

variable (s : State) (L : Link)

theorem inboundHold_setContext (e : EntryNo) (c : Option Context) :
    (s.setContext e c).inboundHold L + entryHold L (s.context e) = s.inboundHold L + entryHold L c :=
  add_right_of_add (sum_look_put (entryHold L) s.reasm.contexts e c)

theorem inboundHold_setDesc (d : DescNo) (x : Descriptor) :
    (s.setDesc d x).inboundHold L + descriptorHold L (s.desc d) = s.inboundHold L + descriptorHold L x :=
  add_left_of_add (sum_look_put (descriptorHold L) s.table.descriptors d x)

@[simp] theorem inboundHold_returnBlocks (bs : List BlockNo) :
    (returnBlocks bs s).inboundHold L = s.inboundHold L := rfl

theorem descriptorHold_of_not {x : Descriptor} (h : x.state ≠ .ready ∧ x.state ≠ .service) : descriptorHold L x = 0 :=
  if_neg fun k => k.2.elim h.1 h.2

theorem descriptorHold_cleared : descriptorHold L .cleared = 0 := descriptorHold_of_not L ⟨nofun, nofun⟩

/-- A descriptor that then is neither READY nor in service adds nothing to the hold. -/
theorem inboundHold_setDesc_le {d : DescNo} {x : Descriptor} (h : x.state ≠ .ready ∧ x.state ≠ .service) :
    (s.setDesc d x).inboundHold L ≤ s.inboundHold L := by
  have := inboundHold_setDesc s L d x
  rw [descriptorHold_of_not L h] at this
  omega

theorem inboundHold_freeMessage_le (d : DescNo) : (freeMessage d s).inboundHold L ≤ s.inboundHold L :=
  inboundHold_setDesc_le (returnBlocks (s.desc d).chain s) L ⟨nofun, nofun⟩

theorem inboundHold_freeMessages_le (ds : List DescNo) : (freeMessages ds s).inboundHold L ≤ s.inboundHold L := by
  induction ds generalizing s with
  | nil => exact le_rfl
  | cons d ds ih => exact (ih _).trans (inboundHold_freeMessage_le s L d)

end

/-! ### What every operation keeps -/

/-- The blocks are accounted for, and no link runs during initialisation, so that no fragment is taken then. -/
structure Accounted (s : State) : Prop where
  blocks : BlocksAccounted s
  running : ∀ L, (s.port L).state = .run → s.host.device = .ready

/-- A change of a descriptor in state `s` that gives no chain to a FREE or an ASSEMBLING message, and none during
initialisation. -/
def ChainAllowed (s : State) (x y : Descriptor) : Prop :=
  y.chain = [] ∨ (y.chain = x.chain ∧ y.state = x.state) ∨
    (y.state ≠ .free ∧ y.state ≠ .assembling ∧ (y.chain = x.chain ∨ s.host.device = .ready))

/-- The slots of a context hold blocks for received fragments alone (R78). -/
def SlotsReceived (c : Context) : Prop := ∀ n b, c.slots.look n = some b → c.received.look n = true

/-- An operation that moves blocks between places keeps them accounted for. -/
theorem Accounted.of_places {s t : State} (h : Accounted s) (device : t.host.device = s.host.device)
    (free : s.host.device = .initialising → t.pool.freeList = s.pool.freeList)
    (places : s.host.device = .ready → ∀ b, placesOf t b = placesOf s b)
    (contexts : ∀ e c, t.context e = some c → s.context e = some c ∨ s.host.device = .ready ∧ SlotsReceived c)
    (chains : ∀ d, ChainAllowed s (s.desc d) (t.desc d))
    (running : ∀ L, (t.port L).state = .run → (s.port L).state = .run ∨ s.host.device = .ready) : Accounted t where
  blocks :=
    { onePlace := fun hd b => by
        rw [device] at hd
        rw [places hd, h.blocks.onePlace hd]
      rebuild := fun hd => by
        rw [device] at hd
        rw [free hd]
        exact h.blocks.rebuild hd
      slots := fun e c n b hc hb => by
        obtain hs | ⟨-, hs⟩ := contexts e c hc
        · exact h.blocks.slots e c n b hs hb
        · exact hs n b hb
      noSlots := fun hd e => by
        rw [device] at hd
        refine Option.eq_none_iff_forall_ne_some.2 fun c hc => ?_
        obtain hs | ⟨hr, -⟩ := contexts e c hc
        · simp [h.blocks.noSlots hd e] at hs
        · simp [hd] at hr
      noChains := fun d hd => by
        rw [device] at hd
        obtain hn | ⟨hc, hs⟩ | ⟨hf, ha, hc⟩ := chains d
        · exact hn
        · rw [hc]; rw [hs] at hd; exact h.blocks.noChains d hd
        · obtain hd | hd | hd := hd
          · exact absurd hd hf
          · exact absurd hd ha
          · obtain hc | hr := hc
            · rw [hc]; exact h.blocks.noChains d (.inr (.inr hd))
            · simp [hd] at hr }
  running L hr := by
    rw [device]
    exact (running L hr).elim (h.running L) id

/-- What a change keeps of the holders, of the blocks and of the inbound holds. -/
structure Keeps (s t : State) : Prop where
  holders : HoldersSound s → HoldersSound t
  blocks : HoldersSound s → Accounted s → Accounted t
  hold : HoldersSound s → HoldWithinCeiling s → HoldWithinCeiling t

theorem Keeps.refl (s : State) : Keeps s s := ⟨id, fun _ => id, fun _ => id⟩

theorem Keeps.trans {s t u : State} (h : Keeps s t) (k : Keeps t u) : Keeps s u :=
  ⟨k.holders ∘ h.holders, fun hs => k.blocks (h.holders hs) ∘ h.blocks hs,
    fun hs => k.hold (h.holders hs) ∘ h.hold hs⟩

/-- The same, last change first. -/
theorem Keeps.after {s t u : State} (k : Keeps t u) (h : Keeps s t) : Keeps s u := h.trans k

/-- A change that is only known to be one of a state with sound holders. -/
theorem Keeps.of_sound {s t : State} (h : HoldersSound s → Keeps s t) : Keeps s t :=
  ⟨fun hs => (h hs).holders hs, fun hs => (h hs).blocks hs, fun hs => (h hs).hold hs⟩

theorem holdWithinCeiling_of_le {s t : State} (h : HoldWithinCeiling s) (ceiling : t.pool.ceiling = s.pool.ceiling)
    (hold : ∀ L, t.inboundHold L ≤ s.inboundHold L) : HoldWithinCeiling t := fun L => by
  rw [ceiling]; exact (hold L).trans (h L)

end Sys2Proof.Steps
end

section
/-! PROOFS. The operations that move no block and change no holder, and those that do. -/

namespace Sys2Proof.Steps

open Sys2Proof.Machine Sys2Proof.Safety Sys2Proof.Statement

/-! ### Operations that move no block and change no holder -/

/-- A descriptor that keeps its role and its chain. -/
structure SameMessage (x y : Descriptor) : Prop where
  role : SameRole x y
  chain : y.chain = x.chain

theorem SameMessage.refl (x : Descriptor) : SameMessage x x := ⟨.refl x, rfl⟩

/-- A change that moves no block and changes no holder; a link enters RUN in READY alone. -/
structure SameUse (s t : State) : Prop where
  messages : ∀ d, SameMessage (s.desc d) (t.desc d)
  contexts : ∀ e, t.context e = s.context e
  holders : ∀ d, holders t d = holders s d
  line : ∀ L, (t.sch L).lineRecord = (s.sch L).lineRecord
  free : t.pool.freeList = s.pool.freeList
  ceiling : t.pool.ceiling = s.pool.ceiling
  device : t.host.device = s.host.device
  running : ∀ L, (t.port L).state = .run → (s.port L).state = .run ∨ s.host.device = .ready

theorem SameUse.placesOf {s t : State} (k : SameUse s t) (b : BlockNo) : placesOf t b = placesOf s b := by
  simp only [Safety.placesOf, k.free, k.contexts, (k.messages _).chain]

theorem SameUse.inboundHold {s t : State} (k : SameUse s t) (L : Link) : t.inboundHold L = s.inboundHold L := by
  simp only [State.inboundHold, k.contexts, descriptorHold, (k.messages _).chain, (k.messages _).role.state,
    (k.messages _).role.link]

theorem SameUse.keeps {s t : State} (k : SameUse s t) : Keeps s t where
  holders h := holdersSound_of_same h (fun d => (k.messages d).role) k.holders
    fun L _ _ hl => .inl ((k.line L).symm.trans hl)
  blocks _ h := h.of_places k.device (fun _ => k.free) (fun _ => k.placesOf)
    (fun e _ hc => .inl ((k.contexts e).symm.trans hc))
    (fun d => .inr (.inl ⟨(k.messages d).chain, (k.messages d).role.state⟩)) k.running
  hold _ h := holdWithinCeiling_of_le h k.ceiling fun L => (k.inboundHold L).le

theorem setPort_keeps {L : Link} {p : LinkPort} {s : State}
    (h : p.state = .run → (s.port L).state = .run ∨ s.host.device = .ready) : Keeps s (s.setPort L p) :=
  SameUse.keeps ⟨fun _ => .refl _, fun _ => rfl, fun _ => rfl, fun _ => rfl, rfl, rfl, rfl, fun M hM => by
    rw [State.setPort_port] at hM
    split at hM
    · next hL => exact hL ▸ h hM
    · exact .inl hM⟩

theorem setPort_keeps_of_state {L : Link} {p : LinkPort} {s : State} (h : p.state = (s.port L).state) :
    Keeps s (s.setPort L p) := setPort_keeps fun hp => .inl (h.symm.trans hp)

theorem pool_keeps {p : Pool} {s : State} (hf : p.freeList = s.pool.freeList) (hc : p.ceiling = s.pool.ceiling) :
    Keeps s { s with pool := p } :=
  SameUse.keeps ⟨fun _ => .refl _, fun _ => rfl, fun _ => rfl, fun _ => rfl, hf, hc, rfl, fun _ => .inl⟩

theorem time_keeps (x : TimeBase) (s : State) : Keeps s { s with time := x } :=
  SameUse.keeps ⟨fun _ => .refl _, fun _ => rfl, fun _ => rfl, fun _ => rfl, rfl, rfl, rfl, fun _ => .inl⟩

theorem notices_keep (q : NoticeQueue) (s : State) : Keeps s { s with notices := q } :=
  SameUse.keeps ⟨fun _ => .refl _, fun _ => rfl, fun _ => rfl, fun _ => rfl, rfl, rfl, rfl, fun _ => .inl⟩

theorem inputs_keep (i : Inputs) (s : State) : Keeps s { s with inputs := i } :=
  SameUse.keeps ⟨fun _ => .refl _, fun _ => rfl, fun _ => rfl, fun _ => rfl, rfl, rfl, rfl, fun _ => .inl⟩

theorem pending_keeps (q : List Instr) (s : State) : Keeps s { s with pending := q } :=
  SameUse.keeps ⟨fun _ => .refl _, fun _ => rfl, fun _ => rfl, fun _ => rfl, rfl, rfl, rfl, fun _ => .inl⟩

theorem host_keeps {x : HostPort} {s : State} (h : x.device = s.host.device) : Keeps s { s with host := x } :=
  SameUse.keeps ⟨fun _ => .refl _, fun _ => rfl, fun _ => rfl, fun _ => rfl, rfl, rfl, h, fun _ => .inl⟩

theorem reasm_keeps {x : Reassembly} {s : State} (h : x.contexts = s.reasm.contexts) :
    Keeps s { s with reasm := x } := by
  have same (e : EntryNo) : State.context { s with reasm := x } e = s.context e := congrArg (Table.look · e) h
  exact SameUse.keeps ⟨fun _ => .refl _, same, fun d => Holders.ext (funext fun e => congrArg (namedBy d) (same e)) rfl
    rfl rfl rfl rfl rfl, fun _ => rfl, rfl, rfl, rfl, fun _ => .inl⟩

/-- The service context holds the same message, or none as before. -/
theorem arbiter_keeps {x : Arbiter} {s : State}
    (h : State.serviceDescriptor { s with arbiter := x } = s.serviceDescriptor) : Keeps s { s with arbiter := x } :=
  SameUse.keeps ⟨fun _ => .refl _, fun _ => rfl, fun d => Holders.ext rfl rfl rfl rfl rfl (congrArg (· = some d) h) rfl,
    fun _ => rfl, rfl, rfl, rfl, fun _ => .inl⟩

theorem compose_keeps {x : Compose} {s : State} (h : x.descriptor = s.compose.descriptor) :
    Keeps s { s with compose := x } :=
  SameUse.keeps ⟨fun _ => .refl _, fun _ => rfl, fun d => Holders.ext rfl rfl rfl rfl rfl rfl (congrArg (· = some d) h),
    fun _ => rfl, rfl, rfl, rfl, fun _ => .inl⟩

theorem setDesc_keeps {d : DescNo} {x : Descriptor} {s : State} (h : SameMessage (s.desc d) x) :
    Keeps s (s.setDesc d x) :=
  SameUse.keeps ⟨fun i => by
    rw [State.setDesc_desc]
    split
    · next hi => rwa [hi]
    · exact .refl _, fun _ => rfl, fun _ => rfl, fun _ => rfl, rfl, rfl, rfl, fun _ => .inl⟩

theorem mapAll_keeps {f : Descriptor → Descriptor} {s : State} (h : ∀ x, SameMessage x (f x)) :
    Keeps s { s with table := { s.table with descriptors := s.table.descriptors.mapAll f } } :=
  SameUse.keeps ⟨fun d => by
    simp only [State.desc, Table.look_mapAll]
    exact h _, fun _ => rfl, fun _ => rfl, fun _ => rfl, rfl, rfl, rfl, fun _ => .inl⟩

/-- A scheduler whose lists and line record are kept. -/
theorem setSch_keeps {L : Link} {y : Scheduler} {s : State} (hq : y.outboundQueue = (s.sch L).outboundQueue)
    (ho : y.outstanding = (s.sch L).outstanding) (hr : y.resendOrder = (s.sch L).resendOrder)
    (hl : y.lineRecord = (s.sch L).lineRecord) : Keeps s (s.setSch L y) :=
  SameUse.keeps ⟨fun _ => .refl _, fun _ => rfl, fun d => holders_setSch_of_same ⟨by rw [hq], by rw [ho], by rw [hr]⟩,
    fun M => by
      rw [State.setSch_sch]
      split
      · next hM => rw [hl, hM]
      · rfl, rfl, rfl, rfl, fun _ => .inl⟩

/-! ### Operations that move blocks or change holders -/

theorem placesOf_setSch (s : State) (L : Link) (y : Scheduler) (b : BlockNo) :
    placesOf (s.setSch L y) b = placesOf s b := by
  simp only [placesOf, State.setSch_pool, State.setSch_context, State.setSch_desc]

/-- A change of the scheduler's records that keeps the holders sound: it moves no block. -/
theorem setSch_keeps_of_sound {L : Link} {y : Scheduler} {s : State}
    (h : HoldersSound s → HoldersSound (s.setSch L y)) :
    Keeps s (s.setSch L y) :=
  ⟨h, fun _ k => k.of_places rfl (fun _ => rfl) (fun _ => placesOf_setSch s L y) (fun _ _ => .inl)
    (fun _ => .inr (.inl ⟨rfl, rfl⟩))
    (fun _ => .inl), fun _ k => holdWithinCeiling_of_le k rfl fun _ => le_rfl⟩

/-- A descriptor put in place of another that had no other chain. -/
theorem placesOf_setDesc_of_chain {s : State} {d : DescNo} {x : Descriptor} (h : x.chain = (s.desc d).chain)
    (b : BlockNo) :
    placesOf (s.setDesc d x) b = placesOf s b := by
  have := placesOf_setDesc s b d x
  rw [h] at this
  omega

theorem chainAllowed_setDesc {s : State} {d : DescNo} {x : Descriptor} (h : ChainAllowed s (s.desc d) x) (i : DescNo) :
    ChainAllowed s (s.desc i) ((s.setDesc d x).desc i) := by
  rw [State.setDesc_desc]
  split
  · next hi => exact hi ▸ h
  · exact .inr (.inl ⟨rfl, rfl⟩)

/-- A message moves to a state outside FREE, ASSEMBLING, READY and SERVICE with its chain, and its scheduler with it. -/
theorem outbound_keeps {L : Link} {d : DescNo} {x : Descriptor} {y : Scheduler} {s : State}
    (h : HoldersSound s → HoldersSound ((s.setDesc d x).setSch L y)) (hc : x.chain = (s.desc d).chain)
    (hx : Outbound x) : Keeps s ((s.setDesc d x).setSch L y) := by
  have state : (x.state ≠ .free ∧ x.state ≠ .assembling) ∧ x.state ≠ .ready ∧ x.state ≠ .service := by
    unfold Outbound at hx
    cases hs : x.state <;> simp_all [outstandingState]
  obtain ⟨⟨hf, ha⟩, hn⟩ := state
  exact ⟨h, fun _ k => k.of_places rfl (fun _ => rfl)
    (fun _ b => (placesOf_setSch _ L y b).trans (placesOf_setDesc_of_chain hc b)) (fun _ _ => .inl)
    (chainAllowed_setDesc (.inr (.inr ⟨hf, ha, .inl hc⟩))) (fun _ => .inl),
    fun _ k => holdWithinCeiling_of_le k rfl fun M => inboundHold_setDesc_le s M hn⟩

/-! ### The slots of a context -/

theorem count_filterMap {α : Type} (f : α → Option BlockNo) (b : BlockNo) (l : List α) :
    (l.filterMap f).count b = (l.map fun j => (f j).toList.count b).sum := by
  induction l with
  | nil => rfl
  | cons j l ih => cases hj : f j <;> simp [hj, ih, List.count_cons, Nat.add_comm]

theorem length_filterMap {α : Type} (f : α → Option BlockNo) (l : List α) :
    (l.filterMap f).length = (l.map fun j => (f j).toList.length).sum := by
  induction l with
  | nil => rfl
  | cons j l ih => cases hj : f j <;> simp [hj, ih, Nat.add_comm]

/-- A block put into a free slot is one more block of the context. -/
theorem slotBlocks_count_put {c c' : Context} {n : FragNo} {b : BlockNo} (hc : c'.slots = c.slots.put n (some b))
    (hn : c.slots.look n = none) (i : BlockNo) :
    (slotBlocks c').count i = (slotBlocks c).count i + [b].count i := by
  have := sum_look_put (fun x : Option BlockNo => x.toList.count i) c.slots n (some b)
  rw [slotBlocks, slotBlocks, count_filterMap, count_filterMap, hc]
  simpa [hn] using this

/-- A block put into a slot is at most one more block of the context. -/
theorem slotBlocks_length_put {c c' : Context} {n : FragNo} {b : BlockNo} (hc : c'.slots = c.slots.put n (some b)) :
    (slotBlocks c').length ≤ (slotBlocks c).length + 1 := by
  have := sum_look_put (fun x : Option BlockNo => x.toList.length) c.slots n (some b)
  rw [slotBlocks, slotBlocks, length_filterMap, length_filterMap, hc]
  simp only [Option.toList_some, List.length_singleton] at this
  omega

theorem slotsReceived_put {c c' : Context} (h : SlotsReceived c) {n : FragNo} {b : Option BlockNo}
    (hr : c'.received = c.received.put n true)
    (hs : c'.slots = match b with | some b => c.slots.put n (some b) | none => c.slots) : SlotsReceived c' := by
  intro i x hx
  rw [hr, Table.look_put]
  split
  · rfl
  · next hi =>
    cases b with
    | none => rw [hs] at hx; exact h i x hx
    | some b => rw [hs, Table.look_put_ne _ _ hi] at hx; exact h i x hx

/-! ### Contexts -/

theorem Accounted.ready_of_context {s : State} (h : Accounted s) {e : EntryNo} {c : Context}
    (hc : s.context e = some c) : s.host.device = .ready := by
  cases hd : s.host.device with
  | ready => rfl
  | initialising => simp [h.blocks.noSlots hd e] at hc

theorem Accounted.slotsReceived {s : State} (h : Accounted s) {e : EntryNo} {c : Context}
    (hc : s.context e = some c) : SlotsReceived c := fun n b => h.blocks.slots e c n b hc

theorem chain_of_context {s : State} (h : HoldersSound s) (k : Accounted s) {e : EntryNo} {c : Context}
    (hc : s.context e = some c) : (s.desc c.descriptor).chain = [] :=
  k.blocks.noChains _ (.inr (.inl (h.context e c hc).1))

/-- The contexts after one entry is replaced. -/
theorem context_setContext {s : State} {e : EntryNo} {x : Option Context}
    (h : ∀ c, x = some c → s.host.device = .ready ∧ SlotsReceived c) (i : EntryNo) (c : Context)
    (hc : (s.setContext e x).context i = some c) : s.context i = some c ∨ s.host.device = .ready ∧ SlotsReceived c := by
  rw [State.setContext_context] at hc
  split at hc
  · exact .inr (h c hc)
  · exact .inl hc

/-- A context is abandoned: its blocks go from the slots to the free list. -/
theorem abandonContext_accounted {s : State} (h : HoldersSound s) (k : Accounted s) {e : EntryNo} {c : Context}
    (hc : s.context e = some c) : Accounted (abandonContext e s) := by
  have chain := chain_of_context h k hc
  have slots b := placesOf_setContext ((returnBlocks (slotBlocks c) s).setDesc c.descriptor .cleared) b e none
  have desc b : placesOf ((returnBlocks (slotBlocks c) s).setDesc c.descriptor .cleared) b =
      placesOf (returnBlocks (slotBlocks c) s) b := placesOf_setDesc_of_chain chain.symm b
  rw [abandonContext_eq hc]
  refine k.of_places rfl (fun hi => ?_) (fun _ b => ?_)
    (context_setContext (s := (returnBlocks (slotBlocks c) s).setDesc c.descriptor .cleared) nofun)
    (chainAllowed_setDesc (.inl rfl)) fun _ => .inl
  · simp [k.ready_of_context hc] at hi
  · have slots := slots b
    rw [State.setDesc_context, returnBlocks_context, hc, desc, placesOf_returnBlocks] at slots
    simp only [slotCount] at slots
    omega

theorem abandonContext_keeps (e : EntryNo) (s : State) : Keeps s (abandonContext e s) := by
  cases hc : s.context e with
  | none => rw [abandonContext_of_none hc]; exact .refl s
  | some c =>
    refine ⟨fun h => abandonContext_holdersSound h e, fun h k => abandonContext_accounted h k hc, fun h k => ?_⟩
    rw [abandonContext_eq hc]
    refine holdWithinCeiling_of_le k rfl fun L => ?_
    have entry := inboundHold_setContext ((returnBlocks (slotBlocks c) s).setDesc c.descriptor .cleared) L e none
    have desc := inboundHold_setDesc_le (returnBlocks (slotBlocks c) s) L (d := c.descriptor) (x := .cleared)
      ⟨nofun, nofun⟩
    rw [inboundHold_returnBlocks] at desc
    simp only [entryHold] at entry
    omega

theorem abandonContexts_keep (es : List EntryNo) (s : State) : Keeps s (abandonContexts es s) := by
  induction es generalizing s with
  | nil => exact .refl s
  | cons e es ih => exact (abandonContext_keeps e s).trans (ih _)

/-- A context without blocks is created for a FREE descriptor in a FREE entry, in READY (R50, R72). -/
theorem openContext_keeps {s : State} {e : EntryNo} {c : Context} {x : Descriptor} (he : s.context e = none)
    (hd : (s.desc c.descriptor).state = .free) (hx : x.state = .assembling) (hl : x.link = c.link) (hn : x.chain = [])
    (hs : ∀ n, c.slots.look n = none) (ready : Accounted s → s.host.device = .ready) :
    Keeps s ((s.setDesc c.descriptor x).setContext e (some c)) := by
  have empty : slotBlocks c = [] := by simp [slotBlocks, hs]
  refine ⟨fun h => openContext_holdersSound h he hd hx hl, fun h k => ?_, fun h k => ?_⟩
  · have chain : (s.desc c.descriptor).chain = [] := k.blocks.noChains _ (.inl hd)
    refine k.of_places rfl (fun _ => rfl) (fun _ b => ?_)
      (context_setContext (s := s.setDesc c.descriptor x) fun c' hc' => ⟨ready k, fun n b hb => ?_⟩)
      (chainAllowed_setDesc (.inl hn)) fun _ => .inl
    · have slots := placesOf_setContext (s.setDesc c.descriptor x) b e (some c)
      rw [State.setDesc_context, he, placesOf_setDesc_of_chain (by rw [hn, chain])] at slots
      simpa [slotCount, empty] using slots
    · cases hc'; simp [hs] at hb
  · refine holdWithinCeiling_of_le k rfl fun L => ?_
    have entry := inboundHold_setContext (s.setDesc c.descriptor x) L e (some c)
    have desc := inboundHold_setDesc_le s L (d := c.descriptor) (x := x) (by simp [hx])
    simp only [entryHold, empty, List.length_nil, ite_self] at entry
    omega

/-- A fragment is stored in its context: its block, if it has one, goes from the free list to its slot (R78). -/
theorem setContext_keeps {s : State} {e : EntryNo} {c c' : Context} {p : Pool} {n : FragNo} {b : Option BlockNo}
    (hc : s.context e = some c) (hd : c'.descriptor = c.descriptor) (hl : c'.link = c.link)
    (hn : c.received.look n = false) (hr : c'.received = c.received.put n true)
    (hs : c'.slots = match b with | some b => c.slots.put n (some b) | none => c.slots)
    (free : s.pool.freeList = b.toList ++ p.freeList) (ceiling : p.ceiling = s.pool.ceiling)
    (room : b ≠ none → s.inboundHold c.link < s.pool.ceiling.look c.link) :
    Keeps s (State.setContext { s with pool := p } e (some c')) := by
  refine ⟨fun h => ?_, fun h k => ?_, fun h k L => ?_⟩
  · have pooled : HoldersSound { s with pool := p } :=
      holdersSound_of_same h (fun _ => .refl _) (fun _ => rfl) fun _ _ _ => .inl
    exact setContext_holdersSound pooled hc hd hl
  · have received := k.slotsReceived hc
    have vacant : c.slots.look n = none :=
      Option.eq_none_iff_forall_ne_some.2 fun x hx => by simp [received n x hx] at hn
    refine k.of_places rfl (fun hi => ?_) (fun _ i => ?_)
      (context_setContext (s := { s with pool := p }) fun x hx => ⟨k.ready_of_context hc, ?_⟩)
      (fun _ => .inr (.inl ⟨rfl, rfl⟩)) fun _ => .inl
    · simp [k.ready_of_context hc] at hi
    · have slots := placesOf_setContext { s with pool := p } i e (some c')
      have pool := placesOf_setPool s i p
      have entry : State.context { s with pool := p } e = some c := hc
      have stored : (slotBlocks c').count i = (slotBlocks c).count i + b.toList.count i := by
        cases b with
        | none => simp [slotBlocks, hs]
        | some b => exact slotBlocks_count_put hs vacant i
      rw [entry] at slots
      rw [free, List.count_append] at pool
      simp only [slotCount] at slots
      omega
    · cases hx; exact slotsReceived_put received hr hs
  · have entry := inboundHold_setContext { s with pool := p } L e (some c')
    have held : State.context { s with pool := p } e = some c := hc
    have same : State.inboundHold { s with pool := p } L = s.inboundHold L := rfl
    have within := k L
    show State.inboundHold _ L ≤ p.ceiling.look L
    rw [held, same] at entry
    rw [ceiling]
    simp only [entryHold, hl] at entry
    by_cases hL : c.link = L
    · simp only [hL, if_true] at entry
      cases b with
      | none =>
        have : slotBlocks c' = slotBlocks c := by simp [slotBlocks, hs]
        rw [this] at entry
        omega
      | some b =>
        have stored := slotBlocks_length_put (n := n) (b := b) hs
        have room := room nofun
        rw [hL] at room
        omega
    · simp only [hL, if_false] at entry
      omega

/-- A message becomes READY: its blocks go from the slots of its context to its chain (R79, R80). -/
theorem closeContext_keeps {s : State} {e : EntryNo} {c : Context} {x : Descriptor} (hc : s.context e = some c)
    (hx : x.state = .ready) (hl : HoldersSound s → x.link = c.link) (hn : x.chain = slotBlocks c) :
    Keeps s (((s.setDesc c.descriptor x).setReady c.link (s.ready c.link ++ [c.descriptor])).setContext e none) := by
  refine ⟨fun h => closeContext_holdersSound h hc hx (hl h), fun h k => ?_, fun h k => ?_⟩
  · have ready := k.ready_of_context hc
    have chain := chain_of_context h k hc
    refine k.of_places rfl (fun _ => rfl) (fun _ b => ?_)
      (context_setContext (s := (s.setDesc c.descriptor x).setReady c.link (s.ready c.link ++ [c.descriptor])) nofun)
      (chainAllowed_setDesc (.inr (.inr ⟨by simp [hx], by simp [hx], .inr ready⟩))) fun _ => .inl
    have slots := placesOf_setContext
      ((s.setDesc c.descriptor x).setReady c.link (s.ready c.link ++ [c.descriptor])) b e none
    have desc := placesOf_setDesc s b c.descriptor x
    have same : placesOf ((s.setDesc c.descriptor x).setReady c.link (s.ready c.link ++ [c.descriptor])) b =
      placesOf (s.setDesc c.descriptor x) b := by
      simp only [placesOf, State.setReady_pool, State.setReady_context, State.setReady_desc]
    rw [State.setReady_context, State.setDesc_context, hc, same] at slots
    rw [chain, hn] at desc
    simp only [slotCount, List.count_nil] at slots desc
    omega
  · obtain ⟨hs, hk⟩ := h.context e c hc
    refine holdWithinCeiling_of_le k rfl fun L => ?_
    have entry := inboundHold_setContext
      ((s.setDesc c.descriptor x).setReady c.link (s.ready c.link ++ [c.descriptor])) L e none
    have desc := inboundHold_setDesc s L c.descriptor x
    have same : ((s.setDesc c.descriptor x).setReady c.link (s.ready c.link ++ [c.descriptor])).inboundHold L =
      (s.setDesc c.descriptor x).inboundHold L := rfl
    rw [State.setReady_context, State.setDesc_context, hc, same] at entry
    rw [descriptorHold_of_not L (by simp [hs])] at desc
    simp only [descriptorHold, hx, hn, hl h, true_or, and_true] at desc
    simp only [entryHold] at entry
    omega

/-- A message ends: its chain goes to the free list. -/
theorem freeMessage_accounted {s : State} (h : Accounted s) (d : DescNo) : Accounted (freeMessage d s) := by
  refine h.of_places rfl (fun hi => ?_) (fun _ b => placesOf_freeMessage s b d) (fun _ _ => .inl)
    (chainAllowed_setDesc (s := s) (.inl rfl)) fun _ => .inl
  simp [freeMessage_eq, h.blocks.noChains d (.inr (.inr hi))]

theorem freeMessages_accounted {s : State} (h : Accounted s) (ds : List DescNo) : Accounted (freeMessages ds s) := by
  induction ds generalizing s with
  | nil => exact h
  | cons d ds ih => exact ih (freeMessage_accounted h d)

theorem freeMessages_ceiling (ds : List DescNo) (s : State) :
    (freeMessages ds s).pool.ceiling = s.pool.ceiling := by
  induction ds generalizing s with
  | nil => rfl
  | cons d ds ih => exact (ih _).trans rfl

theorem freeMessage_hold {s : State} (h : HoldWithinCeiling s) (d : DescNo) : HoldWithinCeiling (freeMessage d s) :=
  holdWithinCeiling_of_le h rfl fun L => inboundHold_freeMessage_le s L d

/-! ### The compose unit, the service context and the ends of messages -/

/-- An outbound message ends (R159, R160). -/
theorem endOutbound_keeps {L : Link} {d : DescNo} {s : State}
    (h : HoldersSound s → Outbound (s.desc d) ∧ (s.desc d).link = L) : Keeps s (endOutbound L d s) := by
  refine ⟨fun k => endOutbound_holdersSound k (h k).1 (h k).2, fun _ k => ?_, fun _ k => ?_⟩
  · have left : Accounted (leaveScheduler L d s) :=
      k.of_places rfl (fun _ => rfl) (fun _ => placesOf_setSch s L _) (fun _ _ => .inl)
        (fun _ => .inr (.inl ⟨rfl, rfl⟩)) fun _ => .inl
    exact freeMessage_accounted left d
  · exact freeMessage_hold (s := leaveScheduler L d s) k d

/-- The queue of a link, the compose unit and the arbiter have no blocks. -/
theorem accounted_of_same {s t : State} (h : Accounted s) (pool : t.pool = s.pool) (host : t.host = s.host)
    (ports : t.ports = s.ports) (contexts : t.reasm.contexts = s.reasm.contexts)
    (descriptors : t.table.descriptors = s.table.descriptors) : Accounted t := by
  have desc (d : DescNo) : t.desc d = s.desc d := congrArg (Table.look · d) descriptors
  have context (e : EntryNo) : t.context e = s.context e := congrArg (Table.look · e) contexts
  refine h.of_places (by rw [host]) (fun _ => by rw [pool]) (fun _ b => ?_) (fun e c hc => .inl (by rwa [← context]))
    (fun d => .inr (.inl (by rw [desc]; exact ⟨rfl, rfl⟩))) fun L hL => .inl ?_
  · simp only [placesOf, pool, context, desc]
  · rwa [State.port, ports] at hL

/-- The inbound holds are of the contexts and the descriptors alone. -/
theorem hold_of_same {s t : State} (h : HoldWithinCeiling s) (ceiling : t.pool.ceiling = s.pool.ceiling)
    (contexts : t.reasm.contexts = s.reasm.contexts) (descriptors : t.table.descriptors = s.table.descriptors) :
    HoldWithinCeiling t := by
  have desc (d : DescNo) : t.desc d = s.desc d := congrArg (Table.look · d) descriptors
  have context (e : EntryNo) : t.context e = s.context e := congrArg (Table.look · e) contexts
  exact holdWithinCeiling_of_le h ceiling fun L => by simp only [State.inboundHold, context, desc, le_refl]

/-- A descriptor in another state, with its chain or, before it is used, without one. -/
theorem setDesc_accounted {s : State} (h : Accounted s) {d : DescNo} {x : Descriptor} (hc : x.chain = (s.desc d).chain)
    (hx : x.state ≠ .free ∧ x.state ≠ .assembling) : Accounted (s.setDesc d x) :=
  h.of_places rfl (fun _ => rfl) (fun _ => placesOf_setDesc_of_chain hc) (fun _ _ => .inl)
    (chainAllowed_setDesc (.inr (.inr ⟨hx.1, hx.2, .inl hc⟩))) fun _ => .inl

theorem setDesc_hold {s : State} (h : HoldWithinCeiling s) {d : DescNo} {x : Descriptor}
    (hx : ∀ L, descriptorHold L x ≤ descriptorHold L (s.desc d)) : HoldWithinCeiling (s.setDesc d x) :=
  holdWithinCeiling_of_le h rfl fun L => by
    have := inboundHold_setDesc s L d x
    have := hx L
    omega

/-- COMPOSE OPEN (R132). -/
theorem openCompose_keeps {s : State} {d : DescNo} {x : Descriptor} {y : Compose} (hc : s.compose.descriptor = none)
    (hd : (s.desc d).state = .free) (hx : x.state = .composing) (hn : x.chain = []) (hy : y.descriptor = some d) :
    Keeps s { s.setDesc d x with compose := y } := by
  refine ⟨fun h => openCompose_holdersSound h hc hd hx hy, fun _ k => ?_, fun _ k => ?_⟩
  · have chain : (s.desc d).chain = [] := k.blocks.noChains d (.inl hd)
    have claimed : Accounted (s.setDesc d x) := setDesc_accounted k (by rw [hn, chain]) (by simp [hx])
    exact accounted_of_same claimed rfl rfl rfl rfl rfl
  · have claimed : HoldWithinCeiling (s.setDesc d x) :=
      setDesc_hold k fun L => (descriptorHold_of_not L (x := x) (by simp [hx])).le.trans (Nat.zero_le _)
    exact hold_of_same claimed rfl rfl rfl

/-- COMPOSE SUBMIT (R138). -/
theorem submitMessage_keeps {s : State} {d : DescNo} (hc : s.compose.descriptor = some d) :
    Keeps s (submitMessage d s) := by
  let x : Descriptor := { s.desc d with state := .queued, fragmentCount := some (fragmentCountOf (s.desc d).length) }
  refine ⟨fun h => submitMessage_holdersSound h hc, fun _ k => ?_, fun _ k => ?_⟩
  · exact accounted_of_same (setDesc_accounted k (d := d) (x := x) rfl ⟨nofun, nofun⟩) rfl rfl rfl rfl rfl
  · have queued : HoldWithinCeiling (s.setDesc d x) :=
      setDesc_hold k fun L => (descriptorHold_of_not L (x := x) ⟨nofun, nofun⟩).le.trans (Nat.zero_le _)
    exact hold_of_same queued rfl rfl rfl

/-- COMPOSE CANCEL (R140). -/
theorem cancelMessage_keeps {s : State} {d : DescNo} {y : Compose} (hc : s.compose.descriptor = some d)
    (hy : y.descriptor = none) : Keeps s { freeMessage d s with compose := y } :=
  ⟨fun h => cancelMessage_holdersSound h hc hy,
    fun _ k => accounted_of_same (freeMessage_accounted k d) rfl rfl rfl rfl rfl,
    fun _ k => hold_of_same (freeMessage_hold k d) rfl rfl rfl⟩

/-- A compose claim: the block goes from the free list to the end of the chain, in READY (R39, R133). -/
theorem extendChain_keeps {s : State} {d : DescNo} {b : BlockNo} {p : Pool} (ready : s.host.device = .ready)
    (hc : s.compose.descriptor = some d) (free : s.pool.freeList = b :: p.freeList)
    (ceiling : p.ceiling = s.pool.ceiling) :
    Keeps s (State.setDesc { s with pool := p } d { s.desc d with chain := (s.desc d).chain ++ [b] }) := by
  let x : Descriptor := { s.desc d with chain := (s.desc d).chain ++ [b] }
  have state (h : HoldersSound s) : x.state = .composing := h.composing d hc
  refine ⟨fun h => ?_, fun h k => ?_, fun h k => ?_⟩
  · refine holdersSound_of_same h (fun i => ?_) (fun _ => rfl) fun _ _ _ => .inl
    rw [State.setDesc_desc]
    split
    · next hi =>
      subst hi
      exact ⟨rfl, rfl, fun hf => by simp [h.composing i hc] at hf⟩
    · exact .refl _
  · refine k.of_places rfl (fun hi => by simp [ready] at hi) (fun _ i => ?_) (fun _ _ => .inl)
      (chainAllowed_setDesc (s := { s with pool := p })
        (.inr (.inr ⟨by simp [h.composing d hc], by simp [h.composing d hc], .inr ready⟩))) fun _ => .inl
    have desc := placesOf_setDesc { s with pool := p } i d x
    have pool := placesOf_setPool s i p
    have old : State.desc { s with pool := p } d = s.desc d := rfl
    rw [free, List.count_cons] at pool
    simp only [old, x, List.count_append, List.count_cons, List.count_nil] at desc pool ⊢
    omega
  · have hold : HoldWithinCeiling { s with pool := p } := hold_of_same k ceiling rfl rfl
    exact setDesc_hold hold fun L => (descriptorHold_of_not L (x := x) (by simp [state h])).le.trans (Nat.zero_le _)

/-- TAKE of a message (R55, R114). -/
theorem takeMessage_keeps {s : State} {L : Link} {d : DescNo} {rest : List DescNo} (hr : s.ready L = d :: rest)
    (he : s.serviceDescriptor = none) (n : Nat) :
    Keeps s (serveItem (.message L n d) ((s.setReady L rest).setDesc d { s.desc d with state := .service })) := by
  let x : Descriptor := { s.desc d with state := .service }
  refine ⟨fun h => takeMessage_holdersSound h hr he n, fun _ k => ?_, fun h k => ?_⟩
  · exact accounted_of_same (setDesc_accounted k (d := d) (x := x) rfl ⟨nofun, nofun⟩) rfl rfl rfl rfl rfl
  · have hs : (s.desc d).state = .ready := (h.ready L d (by simp [hr])).1
    have served : HoldWithinCeiling (s.setDesc d x) :=
      setDesc_hold k fun L => by simp [descriptorHold, x, hs]
    exact hold_of_same served rfl rfl rfl

/-- RELEASE of a message (R118). -/
theorem releaseMessage_keeps {s : State} {d : DescNo} (hd : s.serviceDescriptor = some d) :
    Keeps s (emptyService (freeMessage d s)) :=
  ⟨fun h => releaseMessage_holdersSound h hd,
    fun _ k => accounted_of_same (freeMessage_accounted k d) rfl rfl rfl rfl rfl,
    fun _ k => hold_of_same (freeMessage_hold k d) rfl rfl rfl⟩

/-- REQUEUE of a message (R120). -/
theorem requeueMessage_keeps {s : State} {d : DescNo} (hd : s.serviceDescriptor = some d) :
    Keeps s (emptyService (requeueMessage d s)) := by
  let x : Descriptor := { s.desc d with state := .ready }
  refine ⟨fun h => requeueMessage_holdersSound h hd, fun _ k => ?_, fun h k => ?_⟩
  · exact accounted_of_same (setDesc_accounted k (d := d) (x := x) rfl ⟨nofun, nofun⟩) rfl rfl rfl rfl rfl
  · have requeued : HoldWithinCeiling (s.setDesc d x) :=
      setDesc_hold k fun L => by simp [descriptorHold, x, h.service d hd]
    exact hold_of_same requeued rfl rfl rfl

/-! ### LINK RESET, device reset, the rebuild and the inbound ceiling -/

/-- The messages of a link end, and its lists are emptied (R44, R60, R166). -/
theorem freeLinkMessages_keeps (L : Link) (s : State) :
    Keeps s (State.setSch
      (freeMessages (s.outstandingAscending L) (freeMessages (s.sch L).outboundQueue
        ((freeMessages (s.ready L) s).setReady L []))) L (emptiedScheduler (s.sch L))) := by
  let t := freeMessages (s.outstandingAscending L) (freeMessages (s.sch L).outboundQueue
    ((freeMessages (s.ready L) s).setReady L []))
  have sched (M : Link) : t.sch M = s.sch M := by
    simp only [t, State.sch, freeMessages_sched, State.setReady_sched]
  refine ⟨fun h => resetMessages_holdersSound (L := L) h (fun d => ?_) (fun d => ?_) fun M => ?_, fun _ k => ?_,
    fun _ k => ?_⟩
  · simp only [State.setSch_desc, freeMessages_desc, State.setReady_desc, resetMessages, List.mem_append]
    by_cases hr : d ∈ s.ready L <;> by_cases hq : d ∈ (s.sch L).outboundQueue <;>
      by_cases ho : d ∈ s.outstandingAscending L <;> simp [hr, hq, ho]
  · have held : holders t d = holders (s.setReady L []) d := by
      simp only [t, freeMessages_holders, holders_setReady]
    rw [holders_setSch, held, ← holders_setSch]
    exact holders_of_emptied h ⟨rfl, rfl, rfl⟩
  · rw [State.setSch_sch]
    split
    · rfl
    · exact congrArg (·.lineRecord) (sched M)
  · have ready := accounted_of_same (t := (freeMessages (s.ready L) s).setReady L []) (freeMessages_accounted k _)
      rfl rfl rfl rfl rfl
    exact accounted_of_same (freeMessages_accounted (freeMessages_accounted ready _) (s.outstandingAscending L)) rfl rfl
      rfl rfl rfl
  · refine holdWithinCeiling_of_le k ?_ fun M => ?_
    · simp only [State.setSch_pool, freeMessages_ceiling, State.setReady_pool]
    · exact (inboundHold_freeMessages_le _ M _).trans ((inboundHold_freeMessages_le _ M _).trans
        (inboundHold_freeMessages_le s M _))

end Sys2Proof.Steps
end

section
/-! PROOFS. The rebuild, the configuration writes and the reassembly unit keep the holders, the blocks and the holds. -/

namespace Sys2Proof.Steps

open Sys2Proof.Machine Sys2Proof.Safety Sys2Proof.Statement

/-! ### Device reset, the rebuild and the inbound ceiling -/

theorem deviceReset_inboundHold (low : Bool) (s : State) (L : Link) : (deviceReset low s).inboundHold L = 0 := by
  simp [State.inboundHold, entryHold, descriptorHold_cleared]

theorem deviceReset_accounted (low : Bool) (s : State) : Accounted (deviceReset low s) where
  blocks :=
    { onePlace := nofun
      rebuild := fun _ => rfl
      slots := fun e c n b hc => by simp at hc
      noSlots := fun _ e => deviceReset_context low s e
      noChains := fun d _ => by rw [deviceReset_desc]; rfl }
  running L hr := by rw [deviceReset_port] at hr; cases hr

theorem deviceReset_keeps (low : Bool) (s : State) : Keeps s (deviceReset low s) :=
  ⟨fun _ => deviceReset_holdersSound low s, fun _ _ => deviceReset_accounted low s,
    fun _ _ L => by rw [deviceReset_inboundHold]; exact Nat.zero_le _⟩

/-- The rebuild moves on: it holds a longer first part of the blocks, and all of them when it ends. -/
theorem rebuild_keeps {s : State} {free : List BlockNo} {x : HostPort} (init : s.host.device = .initialising)
    (h : s.pool.freeList = (List.finRange 512).take s.pool.freeList.length →
      x.device = .initialising ∧ free = (List.finRange 512).take free.length ∨
        x.device = .ready ∧ free = List.finRange 512) :
    Keeps s { s with pool := { s.pool with freeList := free }, host := x } := by
  refine ⟨fun k => holdersSound_of_same k (fun _ => .refl _) (fun _ => rfl) fun _ _ _ => .inl, fun _ k => ?_,
    fun _ k => hold_of_same k rfl rfl rfl⟩
  have contexts := k.blocks.noSlots init
  have chains d := k.blocks.noChains d (.inr (.inr init))
  have rebuilt := h (k.blocks.rebuild init)
  refine ⟨⟨fun hd b => ?_, fun hi => ?_, fun e c n b hc => ?_, fun _ => contexts, fun d _ => chains d⟩, fun L hr => ?_⟩
  · obtain ⟨hx, -⟩ | ⟨-, all⟩ := rebuilt
    · exact absurd hd (by simp [hx])
    · have none (e : EntryNo) : slotCount b (s.context e) = 0 := by rw [contexts e]; rfl
      have empty (d : DescNo) : (s.desc d).chain.count b = 0 := by rw [chains d]; rfl
      have one : (List.finRange 512).count b = 1 :=
        List.count_eq_one_of_mem (List.nodup_finRange 512) (List.mem_finRange b)
      show free.count b + ((List.finRange 32).map fun e => slotCount b (s.context e)).sum +
        ((List.finRange 96).map fun d => (s.desc d).chain.count b).sum = 1
      simp [all, none, empty, one]
  · obtain ⟨-, part⟩ | ⟨hx, -⟩ := rebuilt
    · exact part
    · exact absurd hi (by simp [hx])
  · exact absurd hc (by rw [State.context]; exact (contexts e).trans_ne nofun)
  · exact absurd (k.running L hr) (by simp [init])

theorem placed_append {n : Nat} {l : List BlockNo} (h : l = (List.finRange 512).take l.length) :
    l ++ (blocksToPlace l).take n = (List.finRange 512).take (l.length + n) := by
  rw [List.take_add, ← h, blocksToPlace]

/-- The blocks not yet placed, after those placed, are all the blocks in ascending order. -/
theorem append_blocksToPlace {l : List BlockNo} {k : Nat} (h : l = (List.finRange 512).take k) :
    l ++ blocksToPlace l = List.finRange 512 := by
  have placed : l = (List.finRange 512).take l.length := by
    rw [h, List.length_take, List.take_eq_take_min, Nat.min_comm k]
  rw [blocksToPlace]
  conv_lhs => lhs; rw [placed]
  exact List.take_append_drop _ _

theorem finishRebuild_keeps {s : State} (h : s.host.device = .initialising) : Keeps s (finishRebuild s) :=
  rebuild_keeps h fun placed => .inr ⟨rfl, append_blocksToPlace placed⟩

theorem rebuilding_initialising {s : State} (h : s.rebuilding = true) : s.host.device = .initialising := by
  simp only [State.rebuilding, Bool.and_eq_true, beq_iff_eq] at h
  exact h.1

theorem placeBlock_keeps (s : State) : Keeps s (placeBlock s) := by
  unfold placeBlock
  split
  · next h =>
    have init := rebuilding_initialising h
    split
    · next more =>
      refine rebuild_keeps init fun placed => .inl ⟨init, ?_⟩
      rw [placed_append placed, List.length_take, List.length_finRange, Nat.min_eq_left more.le]
    · exact finishRebuild_keeps init
  · exact .refl s

theorem rebuilt_keeps (s : State) : Keeps s (if s.rebuilding then finishRebuild s else s) := by
  split
  · next h => exact finishRebuild_keeps (rebuilding_initialising h)
  · exact .refl s

/-- A ceiling taken is not below the inbound hold of its link (R37). -/
theorem ceiling_keeps {s : State} {L : Link} {v : Nat} (h : s.inboundHold L ≤ v) :
    Keeps s { s with pool := { s.pool with ceiling := s.pool.ceiling.put L v } } where
  holders k := holdersSound_of_same k (fun _ => .refl _) (fun _ => rfl) fun _ _ _ => .inl
  blocks _ k := k.of_places rfl (fun _ => rfl) (fun _ _ => rfl) (fun _ _ => .inl) (fun _ => .inr (.inl ⟨rfl, rfl⟩))
    fun _ => .inl
  hold _ k M := by
    show s.inboundHold M ≤ (s.pool.ceiling.put L v).look M
    rw [Table.look_put]
    split
    · next hM => exact hM ▸ h
    · exact k M

theorem writeCeilingHigh_keeps (v : Byte) (s : State) : Keeps s (writeCeilingHigh v s) := by
  unfold writeCeilingHigh writeCeiling
  split
  · next h =>
    simp only [ceilingAccepts, Bool.and_eq_true, decide_eq_true_eq] at h
    exact ceiling_keeps h.2
  · exact host_keeps rfl

theorem assign_keeps (x : Setting) (v : Nat) (s : State) : Keeps s (x.assign v s) := by
  cases x with
  | prescale | ageStep => exact time_keeps _ s
  | composeReserve => exact pool_keeps rfl rfl
  | noticeWeight | threshold | attentionEnable | linkWeight => exact arbiter_keeps rfl
  | stationAddress | acceptBroadcast | lineRate => exact setPort_keeps_of_state rfl
  | contextQuota | reassemblyLifetime => exact reasm_keeps rfl
  | outstandingLimit | attemptLimit | ackWait | refuseBackoff | reportDone => exact setSch_keeps rfl rfl rfl rfl

theorem writeSetting_keeps (x : Setting) (v : Nat) (s : State) : Keeps s (writeSetting x v s) := by
  unfold writeSetting
  split
  · exact assign_keeps x v s
  · exact host_keeps rfl

/-! ### Notices, counters and requests -/

theorem recordNotice_keeps (n : Notice) (s : State) : Keeps s (recordNotice n s) := by
  rw [recordNotice_eq]; exact notices_keep _ s

theorem count_keeps (L : Link) (c : CounterName) (s : State) : Keeps s (count L c s) := setPort_keeps_of_state rfl

theorem setLoss_keeps (L : Link) (s : State) : Keeps s (setLoss L s) := setPort_keeps_of_state rfl

theorem joinRequest_keeps (L : Link) (r : Request) (s : State) : Keeps s (joinRequest L r s) := by
  rw [joinRequest_eq]
  refine setPort_keeps_of_state ?_
  split <;> rfl

theorem clearHandedOver_keeps (L : Link) (s : State) : Keeps s (clearHandedOver L s) := setPort_keeps_of_state rfl

/-! ### The reassembly unit -/

theorem answerFragment_keeps (L : Link) (f : Fragment) (k : RequestKind) (s : State) :
    Keeps s (answerFragment L f k s) := by
  unfold answerFragment
  split
  · exact joinRequest_keeps L _ s
  · exact .refl s

theorem dropNoContext_keeps (L : Link) (f : Fragment) (s : State) : Keeps s (dropNoContext L f s) :=
  (count_keeps L _ s).trans ((setLoss_keeps L _).trans (answerFragment_keeps L f _ _))

theorem dropNoBlock_keeps (L : Link) (f : Fragment) (s : State) : Keeps s (dropNoBlock L f s) :=
  (count_keeps L _ s).trans ((setLoss_keeps L _).trans (answerFragment_keeps L f _ _))

theorem completeContext_keeps {e : EntryNo} {c : Context} {s : State} (hc : s.context e = some c) :
    Keeps s (completeContext e c s) := by
  have closed := closeContext_keeps (x := completedDescriptor c s) hc rfl (fun h => (h.context e c hc).2) rfl
  have remembered (t : State) (h : List Key) : Keeps t (t.setHistory c.link h) := reasm_keeps rfl
  simp only [completeContext]
  split
  · exact closed.trans (remembered _ _)
  · exact (closed.trans (remembered _ _)).trans (joinRequest_keeps ..)

/-- The pool after a fragment is stored: the payload is in its block. -/
def storedPool (b : Option BlockNo) (payload : List Byte) (s : State) : Pool :=
  match b with
  | some b => (storePayload b payload s).pool
  | none => s.pool

/-- The state in which a fragment stored is tested for completion. -/
theorem storeFragment_eq (e : EntryNo) (c : Context) (f : Fragment) (b : Option BlockNo) (s : State) :
    storeFragment e c f b s =
      let t := State.setContext { s with pool := storedPool b f.payload s } e (some (contextWith c f b))
      if contextWhole (contextWith c f b) then completeContext e (contextWith c f b) t else t := by
  cases b <;> rfl

/-- What the entry held before plays no part in a fragment stored. -/
theorem storeFragment_setContext (e : EntryNo) (c : Context) (f : Fragment) (b : Option BlockNo) (x : Option Context)
    (s : State) : storeFragment e c f b (s.setContext e x) = storeFragment e c f b s := by
  have pool : storedPool b f.payload (s.setContext e x) = storedPool b f.payload s := by cases b <;> rfl
  have same := State.setContext_setContext { s with pool := storedPool b f.payload s } e x (some (contextWith c f b))
  rw [storeFragment_eq, storeFragment_eq, pool, ← same]
  rfl

/-- A fragment is stored in its context, with the block granted to it (R78, R79). -/
theorem storeFragment_keeps {s : State} {e : EntryNo} {c : Context} {f : Fragment} {b : Option BlockNo} {p : Pool}
    (hc : s.context e = some c) (hn : c.received.look f.number = false)
    (free : s.pool.freeList = b.toList ++ p.freeList) (ceiling : p.ceiling = s.pool.ceiling)
    (room : b ≠ none → s.inboundHold c.link < s.pool.ceiling.look c.link) :
    Keeps s (storeFragment e c f b { s with pool := p }) := by
  have stored : Keeps s (State.setContext { s with pool := storedPool b f.payload { s with pool := p } } e
      (some (contextWith c f b))) :=
    setContext_keeps hc rfl rfl hn rfl rfl (free.trans (by cases b <;> rfl)) (.trans (by cases b <;> rfl) ceiling) room
  rw [storeFragment_eq]
  dsimp only
  split
  · exact stored.trans (completeContext_keeps (State.setContext_context_self ..))
  · exact stored

/-- The first fragment of a message is stored in a context created for it, in READY (R72). -/
theorem createStored_keeps {s : State} {L : Link} {e : EntryNo} {d : DescNo} {f : Fragment} {b : Option BlockNo}
    {p : Pool} (he : s.context e = none) (hd : (s.desc d).state = .free) (ready : Accounted s → s.host.device = .ready)
    (free : s.pool.freeList = b.toList ++ p.freeList) (ceiling : p.ceiling = s.pool.ceiling)
    (room : b ≠ none → (s.setDesc d (assemblingRecord L f)).inboundHold L < s.pool.ceiling.look L) :
    Keeps s (storeFragment e (newContext L f d s) f b
      { s.setDesc d (assemblingRecord L f) with pool := p }) := by
  let c := newContext L f d s
  have slots (n : FragNo) : c.slots.look n = none := Table.look_fill ..
  have opened : Keeps s ((s.setDesc d (assemblingRecord L f)).setContext e (some c)) :=
    openContext_keeps he hd rfl rfl rfl slots ready
  have hold := inboundHold_setContext (s.setDesc d (assemblingRecord L f)) L e (some c)
  have empty : slotBlocks c = [] := by simp [slotBlocks, slots]
  rw [State.setDesc_context, he] at hold
  simp only [entryHold, empty, List.length_nil, ite_self, Nat.add_zero] at hold
  rw [← storeFragment_setContext (x := some c)]
  refine opened.trans (storeFragment_keeps (p := p) (State.setContext_context_self ..) (Table.look_fill ..) free ceiling
    fun hb => ?_)
  show State.inboundHold _ L < s.pool.ceiling.look L
  rw [hold]
  exact room hb

theorem createContext_keeps {L : Link} {f : Fragment} {s : State} (ready : Accounted s → s.host.device = .ready) :
    Keeps s (createContext L f s) := by
  unfold createContext
  split
  · exact dropNoContext_keeps L f s
  · next e he =>
    replace he := freeEntry_eq_some he
    split
    · split
      · exact dropNoContext_keeps L f s
      · next d _ hd =>
        obtain ⟨hf, rfl⟩ := claimDescriptor_eq_some.1 hd
        replace hf := (lowestFree_eq_some.1 hf).1
        split
        · exact createStored_keeps (b := none) he hf ready rfl rfl (by simp)
        · split
          · refine .after (dropNoBlock_keeps L f _) (.of_sound fun h => ?_)
            rw [freeDescriptor, State.setDesc_setDesc, ← h.freeCleared d hf, State.setDesc_desc_eq]
            exact .refl s
          · next b _ hb =>
            obtain ⟨-, room, hg⟩ := reassemblyClaim_eq_some.1 hb
            obtain ⟨rest, hr, rfl⟩ := grantBlock_eq_some.1 hg
            exact createStored_keeps (b := some b) he hf ready hr rfl fun _ => room
    · exact dropNoContext_keeps L f s

theorem continueContext_keeps {L : Link} {e : EntryNo} {c : Context} {f : Fragment} {s : State}
    (hc : s.context e = some c) (hl : c.link = L) : Keeps s (continueContext L e c f s) := by
  unfold continueContext
  split
  · exact count_keeps L _ s
  · next hn =>
    replace hn : c.received.look f.number = false := by simpa using hn
    split
    · exact (abandonContext_keeps e s).trans (recordNotice_keeps _ _)
    · split
      · exact storeFragment_keeps (b := none) (p := s.pool) hc hn rfl rfl (by simp)
      · split
        · exact dropNoBlock_keeps L f s
        · next b _ hb =>
          obtain ⟨-, room, hg⟩ := reassemblyClaim_eq_some.1 hb
          obtain ⟨rest, hr, rfl⟩ := grantBlock_eq_some.1 hg
          exact storeFragment_keeps (b := some b) hc hn hr rfl fun _ => hl ▸ room

theorem takeFragment_keeps {L : Link} {f : Fragment} {s : State} (ready : Accounted s → s.host.device = .ready) :
    Keeps s (takeFragment L f s) := by
  unfold takeFragment
  split
  · exact (count_keeps L _ s).trans (answerFragment_keeps L f _ _)
  · split
    · exact createContext_keeps ready
    · next e he =>
      obtain ⟨c, hc, hl, -, -⟩ := findContext_eq_some he
      simp only [hc]
      exact continueContext_keeps hc hl

theorem takeHandedFragment_keeps (L : Link) (s : State) : Keeps s (takeHandedFragment L s) := by
  unfold takeHandedFragment
  split
  · split
    · next hr =>
      exact (clearHandedOver_keeps L s).trans
        (takeFragment_keeps fun k => k.running L (by simpa [clearHandedOver] using hr))
    · exact .refl s
  · exact .refl s

theorem lifetimeExpiry_keeps (e : EntryNo) (s : State) : Keeps s (lifetimeExpiry e s) := by
  obtain h | ⟨c, -, -, h⟩ := lifetimeExpiry_eq e s <;> rw [h]
  · exact .refl s
  · exact (abandonContext_keeps e s).trans (recordNotice_keeps _ _)

end Sys2Proof.Steps
end

section
/-! PROOFS. The outbound scheduler, the link ports and the time base keep the holders, the blocks and the holds. -/

namespace Sys2Proof.Steps

open Sys2Proof.Machine Sys2Proof.Safety Sys2Proof.Statement

/-! ### The outbound scheduler -/

/-- An outbound message ends after its notice is recorded. -/
theorem endOutbound_recorded_keeps {L : Link} {d : DescNo} {s : State} (n : Notice)
    (h : HoldersSound s → Outbound (s.desc d) ∧ (s.desc d).link = L) :
    Keeps s (endOutbound L d (recordNotice n s)) :=
  .of_sound fun k => (recordNotice_keeps n s).trans (endOutbound_keeps fun _ => by rw [recordNotice_eq]; exact h k)

theorem finishFailed_keeps {L : Link} {d : DescNo} {s : State} (r : FailReason)
    (h : HoldersSound s → Outbound (s.desc d) ∧ (s.desc d).link = L) : Keeps s (finishFailed L d r s) :=
  endOutbound_recorded_keeps _ h

theorem finishDone_keeps {L : Link} {d : DescNo} {s : State}
    (h : HoldersSound s → Outbound (s.desc d) ∧ (s.desc d).link = L) : Keeps s (finishDone L d s) := by
  unfold finishDone
  split
  · exact endOutbound_recorded_keeps _ h
  · exact endOutbound_keeps h

/-- An outstanding message of a link is outbound, and of that link. -/
theorem outbound_of_outstanding {s : State} (h : HoldersSound s) {L : Link} {d : DescNo}
    (hd : d ∈ (s.sch L).outstanding) : Outbound (s.desc d) ∧ (s.desc d).link = L :=
  ⟨.inr (h.outstanding L d hd).1, (h.outstanding L d hd).2⟩

theorem takeHandedAck_keeps (L : Link) (s : State) : Keeps s (takeHandedAck L s) := by
  unfold takeHandedAck takeAck
  split
  · refine (clearHandedOver_keeps L s).trans ?_
    split
    · next hm => exact finishDone_keeps fun h => outbound_of_outstanding h (matching_eq_some hm).1
    · exact count_keeps L _ _
  · exact .refl s

theorem enterBackoff_keeps {L : Link} {d : DescNo} {s : State} (hd : InAttempt (s.desc d))
    (hl : HoldersSound s → (s.desc d).link = L) : Keeps s (enterBackoff L d s) :=
  outbound_keeps (fun h => enterBackoff_holdersSound h hd (hl h)) rfl (.inr rfl)

theorem enterResend_keeps {L : Link} {d : DescNo} {s : State} (hd : InAttempt (s.desc d))
    (hl : HoldersSound s → (s.desc d).link = L) : Keeps s (enterResend L d s) :=
  outbound_keeps (fun h => enterResend_holdersSound h hd (hl h)) rfl (.inr rfl)

theorem takeHandedRefuse_keeps (L : Link) (s : State) : Keeps s (takeHandedRefuse L s) := by
  unfold takeHandedRefuse takeRefuse
  split
  · refine (clearHandedOver_keeps L s).trans ?_
    split
    · next hm =>
      have found {h} := outbound_of_outstanding h (matching_eq_some hm).1
      split
      · next hs =>
        split
        · exact enterBackoff_keeps (hs.imp_right .inl) fun h => (found (h := h)).2
        · exact finishFailed_keeps _ fun h => found (h := h)
      · exact count_keeps L _ _
    · exact count_keeps L _ _
  · exact .refl s

theorem takeHandedOver_keeps (L : Link) (s : State) : Keeps s (takeHandedOver L s) :=
  (takeHandedFragment_keeps L s).trans ((takeHandedAck_keeps L _).trans (takeHandedRefuse_keeps L _))

theorem ackWaitExpiry_keeps (d : DescNo) (s : State) : Keeps s (ackWaitExpiry d s) := by
  obtain h | ⟨hs, -, h⟩ := ackWaitExpiry_eq d s <;> rw [h]
  · exact .refl s
  · have attempt : InAttempt (s.desc d) := .inr (.inl hs)
    simp only [expireWait]
    split
    · exact enterResend_keeps attempt fun _ => rfl
    · exact finishFailed_keeps _ fun _ => ⟨attempt.outbound, rfl⟩

theorem backoffExpiry_keeps (d : DescNo) (s : State) : Keeps s (backoffExpiry d s) := by
  obtain h | ⟨hs, -, h⟩ := backoffExpiry_eq d s <;> rw [h]
  · exact .refl s
  · exact enterResend_keeps (.inr (.inr hs)) fun _ => rfl

theorem takeExpiries_keep (s : State) : Keeps s (takeExpiries s) :=
  takeExpiries_induction (P := Keeps s) (.refl s) (fun e _ h => h.trans (lifetimeExpiry_keeps e _))
    (fun d _ h => h.trans (ackWaitExpiry_keeps d _)) fun d _ h => h.trans (backoffExpiry_keeps d _)

theorem setLine_keeps {L : Link} {d : DescNo} {s : State} (n : Nat) (hs : (s.desc d).state = .sending)
    (hl : HoldersSound s → (s.desc d).link = L) : Keeps s (setLine L d n s) :=
  setSch_keeps_of_sound fun h => setLine_holdersSound h hs (hl h) n

/-- The offer is of the SENDING message, or without one of the first message to be sent again, or of the first one
queued (R147). -/
theorem offer_cases {s : State} {L : Link} {o : Offer} (h : s.offer L = some o) :
    (∃ d, o = .sending d ∧ s.sendingOf L = some d) ∨
      s.sendingOf L = none ∧ ((∃ d rest, o = .resend d ∧ (s.sch L).resendOrder = d :: rest) ∨
        ∃ d rest, o = .queued d ∧ (s.sch L).outboundQueue = d :: rest) := by
  unfold State.offer at h
  split at h
  · next d hd => cases h; exact .inl ⟨d, rfl, hd⟩
  · next hn =>
    refine .inr ⟨hn, ?_⟩
    split at h
    · next d rest hr => cases h; exact .inl ⟨d, rest, rfl, hr⟩
    · split at h
      · next d rest hq =>
        split at h
        · cases h; exact .inr ⟨d, rest, rfl, hq⟩
        · cases h
      · cases h

theorem takeOffer_keeps {L : Link} {o : Offer} {s : State} (h : s.offer L = some o) : Keeps s (takeOffer L o s) := by
  obtain ⟨d, rfl, hd⟩ | ⟨hn, ⟨d, rest, rfl, hr⟩ | ⟨d, rest, rfl, hq⟩⟩ := offer_cases h
  · obtain ⟨hm, hs⟩ := sendingOf_eq_some hd
    exact setLine_keeps _ hs fun k => (k.outstanding L d hm).2
  · have begun : Keeps s (beginResend L d s) :=
      outbound_keeps (fun k => beginResend_holdersSound k hn hr) rfl (.inr rfl)
    refine .of_sound fun k => begun.trans (setLine_keeps _ ?_ fun _ => ?_)
    · simp [beginResend, Offer.descriptor]
    · simpa [beginResend, Offer.descriptor] using (k.resend L d (by simp [hr])).2
  · have begun : Keeps s (beginQueued L d s) :=
      outbound_keeps (fun k => beginQueued_holdersSound k hn hq) rfl (.inr rfl)
    refine .of_sound fun k => begun.trans (setLine_keeps _ ?_ fun _ => ?_)
    · simp [beginQueued, Offer.descriptor]
    · simpa [beginQueued, Offer.descriptor] using (k.queued L d (by simp [hq])).2

theorem clearLine_keeps (L : Link) (s : State) : Keeps s (clearLine L s) :=
  setSch_keeps_of_sound fun h => clearLine_holdersSound h L

/-- A message whose fragment has left the line moves on, and the line record becomes absent. -/
theorem fragmentSent_keeps {L : Link} {d : DescNo} {s : State} (n : Nat) (hs : (s.desc d).state = .sending)
    (hl : HoldersSound s → (s.desc d).link = L) : Keeps s (clearLine L (fragmentSent L d n s)) := by
  have attempt : InAttempt (s.desc d) := .inl hs
  unfold fragmentSent
  split
  · exact (clearLine_keeps L _).after (setDesc_keeps ⟨⟨rfl, rfl, fun hf => by simp [hs] at hf⟩, rfl⟩)
  · split
    · exact (finishDone_keeps fun h => ⟨attempt.outbound, hl h⟩).trans (clearLine_keeps L _)
    · exact outbound_keeps (fun h => enterAwaitAck_holdersSound h attempt (hl h)) rfl (.inr rfl)

theorem reportFrameEnd_keeps (L : Link) (s : State) : Keeps s (reportFrameEnd L s) := by
  unfold reportFrameEnd
  split
  · next n d hr =>
    split
    · next hs => exact fragmentSent_keeps n hs fun h => (h.line L n d hr).2
    · exact clearLine_keeps L s
  · exact clearLine_keeps L s

theorem stopSending_keeps (L : Link) (s : State) : Keeps s (stopSending L s) := by
  unfold stopSending
  split
  · next hd =>
    obtain ⟨hm, hs⟩ := sendingOf_eq_some hd
    split
    · exact enterResend_keeps (.inl hs) fun h => (h.outstanding L _ hm).2
    · exact finishFailed_keeps _ fun h => outbound_of_outstanding h hm
  · exact .refl s

theorem suspendDeadlines_keeps (L : Link) (s : State) : Keeps s (suspendDeadlines L s) := by
  refine mapAll_keeps fun x => ?_
  unfold suspendedDescriptor
  split
  · next h => exact ⟨⟨rfl, rfl, fun hf => by simp [hf] at h⟩, rfl⟩
  · exact .refl x

theorem rearmDeadlines_keeps (L : Link) (s : State) : Keeps s (rearmDeadlines L s) := by
  refine mapAll_keeps fun x => ?_
  unfold rearmedDescriptor
  split
  · next h => exact ⟨⟨rfl, rfl, fun hf => by simp [hf] at h⟩, rfl⟩
  · split
    · next h => exact ⟨⟨rfl, rfl, fun hf => by simp [hf] at h⟩, rfl⟩
    · exact .refl x

/-! ### Transmitters -/

theorem beginFrame_keeps (L : Link) (f : Frame) (s : State) : Keeps s (beginFrame L f s) := setPort_keeps_of_state rfl

theorem takeFrameStart_keeps (L : Link) (s : State) : Keeps s (takeFrameStart L s) := by
  have dequeued (q : List Request) : Keeps s (s.setPort L { s.port L with controlQueue := q }) :=
    setPort_keeps_of_state rfl
  unfold takeFrameStart startFrame
  split
  · split
    · exact (dequeued _).trans (beginFrame_keeps L _ _)
    · split
      · next ho => exact (takeOffer_keeps ho).trans (beginFrame_keeps L _ _)
      · exact .refl s
  · exact .refl s

theorem enterOff_keeps (L : Link) (s : State) : Keeps s (enterOff L s) := by
  have off (t : State) : Keeps t (t.setPort L { t.port L with state := .off, controlQueue := [] }) :=
    setPort_keeps nofun
  exact (abandonContexts_keep _ s).trans ((off _).trans ((stopSending_keeps L _).trans
    ((suspendDeadlines_keeps L _).trans (recordNotice_keeps _ _))))

theorem endFrame_keeps (L : Link) (s : State) : Keeps s (endFrame L s) := by
  have reported : Keeps s (reportFrameEnd L (enterGap L s)) :=
    (reportFrameEnd_keeps L _).after (setPort_keeps_of_state rfl)
  simp only [endFrame]
  split
  · exact reported.trans (enterOff_keeps L _)
  · exact reported

theorem transmitterPeriod_keeps (L : Link) (s : State) : Keeps s (transmitterPeriod L s) := by
  unfold transmitterPeriod
  split
  · unfold sendPeriod
    split
    · exact setPort_keeps_of_state rfl
    · exact endFrame_keeps L s
  · refine setPort_keeps_of_state ?_
    unfold measureGap
    split <;> rfl
  · exact takeFrameStart_keeps L s

theorem frameEnded_keeps (L : Link) (s : State) :
    Keeps s (if (s.port L).transmitter = .active then endFrame L s else s) := by
  split
  · exact endFrame_keeps L s
  · exact .refl s

theorem gapEnded_keeps (L : Link) (s : State) :
    Keeps s (if (s.port L).transmitter = .gap ∧ s.host.resetLow = false then enterIdle L s else s) := by
  split
  · exact setPort_keeps_of_state rfl
  · exact .refl s

/-! ### Receivers -/

theorem keeps_of_receiverOnly {L : Link} {s t : State} (h : ReceiverOnly L s t) : Keeps s t := by
  obtain ⟨q, rfl, hq⟩ := h
  exact setPort_keeps_of_state hq.state

theorem finishFrame_keeps (L : Link) (s : State) : Keeps s (finishFrame L s) := by
  unfold finishFrame
  split
  · exact (takeHandedOver_keeps L s).trans (keeps_of_receiverOnly (completeFrame_receiverOnly L _))
  · exact .refl s

theorem concludeFrame_keeps (L : Link) (s : State) : Keeps s (concludeFrame L s) :=
  (finishFrame_keeps L s).trans (keeps_of_receiverOnly (discardOversized_receiverOnly L _))

theorem receiveCharacter_keeps (L : Link) (b : Byte) (s : State) : Keeps s (receiveCharacter L b s) :=
  (concludeFrame_keeps L s).trans (keeps_of_receiverOnly (hearCharacter_receiverOnly L b _))

theorem receiveError_keeps (L : Link) (s : State) : Keeps s (receiveError L s) :=
  (concludeFrame_keeps L s).trans (keeps_of_receiverOnly (hearError_receiverOnly L _))

theorem takeLineEvent_keeps (L : Link) (s : State) (e : Option LineEvent) : Keeps s (takeLineEvent L s e) := by
  unfold takeLineEvent
  split
  · exact receiveCharacter_keeps L _ s
  · exact receiveError_keeps L s
  · exact .refl s

theorem receiverPeriod_keeps (L : Link) (s : State) : Keeps s (receiverPeriod L s) := by
  unfold receiverPeriod
  split
  · exact setPort_keeps_of_state rfl
  · simp only [sampleReceiver]
    refine (concludeFrame_keeps L _).after ?_
    split
    · exact (keeps_of_receiverOnly (countIdle_receiverOnly L _)).after (setPort_keeps_of_state rfl)
    · exact (takeLineEvent_keeps L _ _).after (setPort_keeps_of_state rfl)

theorem handOffPeriod_keeps (L : Link) (s : State) : Keeps s (handOffPeriod L s) := by
  unfold handOffPeriod
  split
  · exact .refl s
  · split
    · exact setPort_keeps_of_state rfl
    · exact takeHandedOver_keeps L s

theorem linkPeriods_keep (s : State) : Keeps s (linkPeriods s) := by
  have one (L : Link) (t : State) : Keeps t (linkPeriod L t) :=
    (transmitterPeriod_keeps L t).trans ((handOffPeriod_keeps L _).trans (receiverPeriod_keeps L _))
  exact (one 0 s).trans ((one 1 _).trans ((one 2 _).trans (one 3 _)))

/-! ### The time base -/

theorem agePulsePeriod_keeps (s : State) : Keeps s (agePulsePeriod s) := by
  have aged (x : Descriptor) : SameMessage x (agedDescriptor x) := by
    unfold agedDescriptor
    split
    · next h => exact ⟨⟨rfl, rfl, fun hf => by simp [hf] at h⟩, rfl⟩
    · exact .refl x
  unfold agePulsePeriod
  split
  · exact (mapAll_keeps aged).trans (time_keeps _ _)
  · exact .refl s

theorem takeTick_keeps (s : State) : Keeps s (takeTick s) := by
  unfold takeTick
  split
  · exact .refl s
  · exact (takeExpiries_keep s).trans (time_keeps _ _)

theorem countPeriod_keeps (s : State) : Keeps s (countPeriod s) := by
  unfold countPeriod
  split
  · exact time_keeps _ s
  · exact takeTick_keeps s

/-! ### Commands of the command register -/

theorem hostWrite_keeps {effect : State → State} {s : State} (h : Keeps s (effect s)) :
    Keeps s (hostWrite effect s) := by
  unfold hostWrite
  split
  · exact .refl s
  · exact h

theorem issueCommand_keeps {code : Byte} {body : State → State × CommandOutcome} {s : State}
    (h : s.host.device = .ready → Keeps s (body s).1) : Keeps s (issueCommand code body s) := by
  refine hostWrite_keeps ?_
  split
  · exact host_keeps rfl
  · next hd => exact (h hd).trans (host_keeps rfl)

theorem linkStartBody_keeps {s : State} (ready : s.host.device = .ready) : Keeps s (linkStartBody s).1 := by
  unfold linkStartBody
  split
  · exact .refl s
  · split
    · split
      · exact .refl s
      · exact (rearmDeadlines_keeps _ _).after (setPort_keeps fun _ => .inr ready)
    all_goals exact .refl s

theorem stopLink_keeps (L : Link) (s : State) : Keeps s (stopLink L s) := by
  have stopping (t : State) : Keeps t (t.setPort L { t.port L with state := .stopping }) := setPort_keeps nofun
  have disabled : Keeps s (disableReceiver L s) := setPort_keeps_of_state rfl
  simp only [stopLink]
  split
  · exact disabled.trans (stopping _)
  · exact (disabled.trans (stopping _)).trans (enterOff_keeps L _)

theorem linkStopBody_keeps (s : State) : Keeps s (linkStopBody s).1 := by
  unfold linkStopBody
  split
  · exact .refl s
  · split
    · exact stopLink_keeps _ s
    all_goals exact .refl s

end Sys2Proof.Steps
end

section
/-! PROOFS. The commands, the register window and every step keep the holders, the blocks and the holds. -/

namespace Sys2Proof.Steps

open Sys2Proof.Machine Sys2Proof.Safety Sys2Proof.Statement

/-! ### LINK RESET and the commands without a message -/

/-- Contexts abandoned leave the ready queues and the schedulers. -/
theorem abandonContexts_ready_sch (es : List EntryNo) (s : State) (L : Link) :
    (abandonContexts es s).ready L = s.ready L ∧ (abandonContexts es s).sch L = s.sch L := by
  induction es generalizing s with
  | nil => exact ⟨rfl, rfl⟩
  | cons e es ih =>
    obtain ⟨hr, hs⟩ := ih (abandonContext e s)
    have one : (abandonContext e s).ready L = s.ready L ∧ (abandonContext e s).sch L = s.sch L := by
      cases hc : s.context e with
      | none => rw [abandonContext_of_none hc]; exact ⟨rfl, rfl⟩
      | some c => rw [abandonContext_eq hc]; exact ⟨rfl, rfl⟩
    exact ⟨hr.trans one.1, hs.trans one.2⟩

theorem resetLink_keeps (L : Link) (s : State) : Keeps s (resetLink L s) := by
  let t := (abandonContexts (s.entriesOfLink L) s).setHistory L []
  obtain ⟨ready, sched⟩ := abandonContexts_ready_sch (s.entriesOfLink L) s L
  have abandoned : Keeps s t := (abandonContexts_keep _ s).trans (reasm_keeps rfl)
  have freed := freeLinkMessages_keeps L t
  have messages : t.ready L = s.ready L := ready
  have scheduler : t.sch L = s.sch L := sched
  have outstanding : t.outstandingAscending L = s.outstandingAscending L := by
    simp only [State.outstandingAscending, scheduler]
  rw [messages, scheduler, outstanding] at freed
  have port (u : State) : Keeps u (u.setPort L (resetPort (u.port L))) := setPort_keeps nofun
  have same : (freeMessages (s.outstandingAscending L) (freeMessages (s.sch L).outboundQueue
      ((freeMessages (s.ready L) t).setReady L []))).sch L = s.sch L := by
    rw [State.sch, freeMessages_sched, freeMessages_sched, State.setReady_sched, freeMessages_sched]
    exact sched
  simp only [resetLink]
  refine (abandoned.trans ?_).trans ((port _).trans (recordNotice_keeps _ _))
  rw [same]
  exact freed

theorem linkResetBody_keeps (s : State) : Keeps s (linkResetBody s).1 := by
  unfold linkResetBody
  split
  · exact .refl s
  · exact resetLink_keeps _ s

theorem countersClearBody_keeps (s : State) : Keeps s (countersClearBody s).1 := by
  unfold countersClearBody
  split
  · exact .refl s
  · exact setPort_keeps_of_state rfl

theorem outWithdrawBody_keeps (s : State) : Keeps s (outWithdrawBody s).1 := by
  unfold outWithdrawBody
  split
  · exact .refl s
  · next L _ =>
    split
    · exact .refl s
    · next d hd =>
      split
      · exact .refl s
      · refine endOutbound_keeps fun h => ?_
        obtain ho | hq := List.mem_append.1 (List.mem_of_find?_eq_some hd)
        · exact outbound_of_outstanding h ho
        · exact ⟨.inl (h.queued L d hq).1, (h.queued L d hq).2⟩

theorem clearFlagsBody_keeps (s : State) : Keeps s (clearFlagsBody s).1 :=
  (host_keeps (s := s) (x := { s.host with cfgReject := false }) rfl).trans (arbiter_keeps rfl)

/-! ### The compose unit -/

theorem composeOpenBody_keeps (s : State) : Keeps s (composeOpenBody s).1 := by
  unfold composeOpenBody
  split
  · exact .refl s
  · next closed =>
    split
    · exact .refl s
    · split
      · exact .refl s
      · split
        · exact .refl s
        · next hd =>
          obtain ⟨hf, rfl⟩ := claimDescriptor_eq_some.1 hd
          exact openCompose_keeps (by simpa using closed) (lowestFree_eq_some.1 hf).1 rfl rfl rfl

theorem composeSubmitBody_keeps (s : State) : Keeps s (composeSubmitBody s).1 := by
  unfold composeSubmitBody
  split
  · exact .refl s
  · next hd => exact submitMessage_keeps hd

theorem composeCancelBody_keeps (s : State) : Keeps s (composeCancelBody s).1 := by
  unfold composeCancelBody
  split
  · exact .refl s
  · next hd => exact cancelMessage_keeps hd rfl

theorem composeBlock_keeps {d : DescNo} {s t : State} {b : BlockNo} (ready : s.host.device = .ready)
    (hd : s.compose.descriptor = some d) (h : composeBlock d s = some (b, t)) : Keeps s t := by
  unfold composeBlock at h
  split at h
  · obtain ⟨⟨b', u⟩, hu, hb⟩ := Option.map_eq_some_iff.1 h
    obtain ⟨rest, hr, rfl⟩ := grantBlock_eq_some.1 hu
    cases hb
    exact extendChain_keeps ready hd hr rfl
  · obtain ⟨b', -, hb⟩ := Option.map_eq_some_iff.1 h
    cases hb
    exact .refl s

/-- The message composed is in no record but the compose context, so only its length changes. -/
theorem composeBlock_desc {d : DescNo} {s t : State} {b : BlockNo} (h : composeBlock d s = some (b, t)) :
    (t.desc d).state = (s.desc d).state := by
  unfold composeBlock at h
  split at h
  · obtain ⟨⟨b', u⟩, hu, hb⟩ := Option.map_eq_some_iff.1 h
    obtain ⟨rest, -, rfl⟩ := grantBlock_eq_some.1 hu
    cases hb
    rw [State.setDesc_desc_self]
    rfl
  · obtain ⟨b', -, hb⟩ := Option.map_eq_some_iff.1 h
    cases hb
    rfl

theorem acceptByte_keeps {d : DescNo} {b : BlockNo} {v : Byte} {s : State} (h : (s.desc d).state ≠ .free) :
    Keeps s (acceptByte d b v s) := by
  have appended : Keeps s (appendByte b v s) := pool_keeps rfl rfl
  have longer : Keeps (appendByte b v s)
      ((appendByte b v s).setDesc d { s.desc d with length := (s.desc d).length + 1 }) :=
    setDesc_keeps ⟨⟨rfl, rfl, fun hf => absurd hf h⟩, rfl⟩
  exact (appended.trans longer).trans (compose_keeps rfl)

theorem writeComposePort_keeps (v : Byte) (s : State) : Keeps s (writeComposePort v s) := by
  unfold writeComposePort writeComposeByte
  split
  · exact .refl s
  · next ready =>
    split
    · exact compose_keeps rfl
    · next d hd =>
      split
      · exact compose_keeps rfl
      · split
        · next hb =>
          refine .of_sound fun h => (composeBlock_keeps ready hd hb).trans (acceptByte_keeps ?_)
          rw [composeBlock_desc hb, h.composing d hd]
          decide
        · exact compose_keeps rfl

/-! ### The service context -/

/-- The service context takes, or gives up, a notice. -/
theorem serveNotice_keeps {c : ServiceContext} {s : State} (hs : s.serviceDescriptor = none)
    (hc : ∀ L n d, c ≠ .message L n d) : Keeps s (serveItem c s) := by
  refine arbiter_keeps ?_
  rw [hs, State.serviceDescriptor]
  split
  · next h => exact absurd h (hc _ _ _)
  · rfl
  · rfl

theorem takeItem_keeps {w : Source × Nat} {s : State} (empty : s.arbiter.service = .empty) :
    Keeps s (takeItem w s) := by
  have none : s.serviceDescriptor = none := by simp [State.serviceDescriptor, empty]
  unfold takeItem
  split
  · split
    · next hr => exact takeMessage_keeps hr none _
    · exact .refl s
  · split
    · exact (notices_keep _ s).trans (serveNotice_keeps none nofun)
    · exact .refl s

theorem takeBody_keeps (s : State) : Keeps s (takeBody s).1 := by
  unfold takeBody
  split
  · exact .refl s
  · next empty =>
    split
    · exact .refl s
    · split
      · exact takeItem_keeps (not_not.1 empty)
      · exact .refl s

theorem takeAnyBody_keeps (s : State) : Keeps s (takeAnyBody s).1 := by
  unfold takeAnyBody
  split
  · exact .refl s
  · next empty =>
    split
    · exact .refl s
    · exact takeItem_keeps (not_not.1 empty)

theorem emptyService_keeps {s : State} (h : s.serviceDescriptor = none) : Keeps s (emptyService s) :=
  arbiter_keeps (h ▸ rfl)

theorem releaseBody_keeps (s : State) : Keeps s (releaseBody s).1 := by
  unfold releaseBody
  split
  · exact .refl s
  · next h => exact releaseMessage_keeps (by simp [State.serviceDescriptor, h])
  · next h => exact emptyService_keeps (by simp [State.serviceDescriptor, h])

theorem requeueBody_keeps (s : State) : Keeps s (requeueBody s).1 := by
  unfold requeueBody
  split
  · exact .refl s
  · next h => exact requeueMessage_keeps (by simp [State.serviceDescriptor, h])
  · next h =>
    split
    · exact (notices_keep _ s).trans (emptyService_keeps (by simp [State.serviceDescriptor, h]))
    · exact .refl s

theorem readDataPort_keeps (s : State) : Keeps s (readDataPort s) := by
  unfold readDataPort
  split
  · exact .refl s
  · split <;> exact arbiter_keeps rfl

theorem writeCursorHigh_keeps (v : Byte) (s : State) : Keeps s (writeCursorHigh v s) := by
  unfold writeCursorHigh
  split
  · exact .refl s
  · split <;> exact arbiter_keeps rfl

/-! ### Reads and writes of the window -/

theorem hostRead_keeps {value : State → Byte} {effect : State → State} {s : State} (h : Keeps s (effect s)) :
    Keeps s (hostRead value effect s) := by
  unfold hostRead
  split
  · exact host_keeps rfl
  · exact h.trans (host_keeps rfl)

theorem readEffect_keeps (a : BitVec 7) (s : State) : Keeps s (readEffect a s) := by
  generalize he : readEffect a = effect
  unfold readEffect at he
  split at he <;> subst he
  · exact readDataPort_keeps s
  · exact arbiter_keeps rfl
  · exact compose_keeps rfl
  · exact time_keeps _ s
  · exact pool_keeps rfl rfl
  · exact pool_keeps rfl rfl
  · exact .refl s

theorem driveData_keeps (i : Inputs) (p : Pins) (s : State) : Keeps s (driveData i p s) := by
  unfold driveData
  split
  · exact hostRead_keeps (readEffect_keeps _ s)
  · split
    · exact .refl s
    · exact host_keeps rfl

theorem writeLinkSelect_keeps (v : Byte) (s : State) : Keeps s (writeLinkSelect v s) := by
  unfold writeLinkSelect
  split <;> exact host_keeps rfl

theorem commandDeviceReset_keeps (s : State) : Keeps s (commandDeviceReset s) := by
  refine hostWrite_keeps ?_
  split
  · exact host_keeps rfl
  · exact deviceReset_keeps false s

theorem writeCommandRegister_keeps (code : Byte) (s : State) : Keeps s (writeCommandRegister code s) := by
  unfold writeCommandRegister
  split
  · exact issueCommand_keeps linkStartBody_keeps
  · exact issueCommand_keeps fun _ => linkStopBody_keeps s
  · exact issueCommand_keeps fun _ => linkResetBody_keeps s
  · exact issueCommand_keeps fun _ => takeBody_keeps s
  · exact issueCommand_keeps fun _ => takeAnyBody_keeps s
  · exact issueCommand_keeps fun _ => releaseBody_keeps s
  · exact issueCommand_keeps fun _ => requeueBody_keeps s
  · exact issueCommand_keeps fun _ => composeOpenBody_keeps s
  · exact issueCommand_keeps fun _ => composeSubmitBody_keeps s
  · exact issueCommand_keeps fun _ => composeCancelBody_keeps s
  · exact issueCommand_keeps fun _ => outWithdrawBody_keeps s
  · exact issueCommand_keeps fun _ => notices_keep _ s
  · exact issueCommand_keeps fun _ => countersClearBody_keeps s
  · exact issueCommand_keeps fun _ => clearFlagsBody_keeps s
  · exact commandDeviceReset_keeps s
  · exact issueCommand_keeps fun _ => .refl s

theorem windowWrite_keeps (a : BitVec 7) (v : Byte) (s : State) : Keeps s (windowWrite a v s) := by
  unfold windowWrite
  split
  · exact writeCommandRegister_keeps v s
  · exact writeLinkSelect_keeps v s
  · exact host_keeps rfl
  · exact host_keeps rfl
  · exact host_keeps rfl
  · exact arbiter_keeps rfl
  · exact writeCursorHigh_keeps v s
  · exact writeComposePort_keeps v s
  · exact host_keeps rfl
  · exact writeCeilingHigh_keeps v s
  · split
    · exact writeSetting_keeps _ _ s
    · exact .refl s

/-! ### A reference period, a command and a step -/

theorem busPeriod_keeps (s : State) : Keeps s (busPeriod s) := by
  have written : Keeps s (if writeEnds s.inputs s.inputs.next then
      takeWrite s.inputs.next.address s.inputs.next.data s else s) := by
    split
    · exact hostWrite_keeps (windowWrite_keeps _ _ s)
    · exact .refl s
  exact (written.trans (driveData_keeps _ _ _)).trans (inputs_keep _ _)

theorem clockPeriod_keeps (s : State) : Keeps s (clockPeriod s) := by
  simp only [clockPeriod]
  split
  · exact busPeriod_keeps s
  · exact ((((busPeriod_keeps s).trans (countPeriod_keeps _)).trans (agePulsePeriod_keeps _)).trans
      (placeBlock_keeps _)).trans (linkPeriods_keep _)

/-- Every command keeps the holders, the blocks and the inbound holds. -/
theorem exec_keeps (c : Instr) (s : State) : ∃ t, exec c s = .next t ∧ Keeps s t :=
  match c with
  | .resetLineLow => ⟨_, rfl, (deviceReset_keeps true s).trans (inputs_keep _ _)⟩
  | .resetLineHigh => ⟨_, rfl, host_keeps rfl⟩
  | .freeListRebuilt => ⟨_, rfl, rebuilt_keeps s⟩
  | .tick => ⟨_, rfl, takeTick_keeps s⟩
  | .agePulse => ⟨_, rfl, agePulsePeriod_keeps s⟩
  | .contextLifetimeExpiry e => ⟨_, rfl, lifetimeExpiry_keeps e s⟩
  | .acknowledgementWaitExpiry d => ⟨_, rfl, ackWaitExpiry_keeps d s⟩
  | .refuseBackoffExpiry d => ⟨_, rfl, backoffExpiry_keeps d s⟩
  | .settlingGapEnd L => ⟨_, rfl, keeps_of_receiverOnly (endSettling_receiverOnly L s)⟩
  | .rxFrameComplete L => ⟨_, rfl, finishFrame_keeps L s⟩
  | .truncation L => ⟨_, rfl, keeps_of_receiverOnly (truncateFrame_receiverOnly L s)⟩
  | .characterError L => ⟨_, rfl, receiveError_keeps L s⟩
  | .oversizedPayloadLength L => ⟨_, rfl, keeps_of_receiverOnly (discardOversized_receiverOnly L s)⟩
  | .fragment L => ⟨_, rfl, takeHandedFragment_keeps L s⟩
  | .ackReceived L => ⟨_, rfl, takeHandedAck_keeps L s⟩
  | .refuseReceived L => ⟨_, rfl, takeHandedRefuse_keeps L s⟩
  | .frameStart L => ⟨_, rfl, takeFrameStart_keeps L s⟩
  | .frameEnd L => ⟨_, rfl, frameEnded_keeps L s⟩
  | .txGapEnd L => ⟨_, rfl, gapEnded_keeps L s⟩
  | .linkStart => ⟨_, rfl, issueCommand_keeps linkStartBody_keeps⟩
  | .linkStop => ⟨_, rfl, issueCommand_keeps fun _ => linkStopBody_keeps s⟩
  | .linkReset => ⟨_, rfl, issueCommand_keeps fun _ => linkResetBody_keeps s⟩
  | .take => ⟨_, rfl, issueCommand_keeps fun _ => takeBody_keeps s⟩
  | .takeAny => ⟨_, rfl, issueCommand_keeps fun _ => takeAnyBody_keeps s⟩
  | .release => ⟨_, rfl, issueCommand_keeps fun _ => releaseBody_keeps s⟩
  | .requeue => ⟨_, rfl, issueCommand_keeps fun _ => requeueBody_keeps s⟩
  | .composeOpen => ⟨_, rfl, issueCommand_keeps fun _ => composeOpenBody_keeps s⟩
  | .composeSubmit => ⟨_, rfl, issueCommand_keeps fun _ => composeSubmitBody_keeps s⟩
  | .composeCancel => ⟨_, rfl, issueCommand_keeps fun _ => composeCancelBody_keeps s⟩
  | .outWithdraw => ⟨_, rfl, issueCommand_keeps fun _ => outWithdrawBody_keeps s⟩
  | .noticeClearOverflow => ⟨_, rfl, issueCommand_keeps fun _ => notices_keep _ s⟩
  | .countersClear => ⟨_, rfl, issueCommand_keeps fun _ => countersClearBody_keeps s⟩
  | .clearFlags => ⟨_, rfl, issueCommand_keeps fun _ => clearFlagsBody_keeps s⟩
  | .deviceReset => ⟨_, rfl, commandDeviceReset_keeps s⟩
  | .unknownCommand code => ⟨_, rfl, writeCommandRegister_keeps code s⟩
  | .readDataPortRead => ⟨_, rfl, hostRead_keeps (readDataPort_keeps s)⟩
  | .readCursorLowWrite _ => ⟨_, rfl, hostWrite_keeps (arbiter_keeps rfl)⟩
  | .readCursorHighWrite v => ⟨_, rfl, hostWrite_keeps (writeCursorHigh_keeps v s)⟩
  | .readCursorLowRead => ⟨_, rfl, hostRead_keeps (arbiter_keeps rfl)⟩
  | .composeDataPortWrite v => ⟨_, rfl, hostWrite_keeps (writeComposePort_keeps v s)⟩
  | .tickCounterLowRead => ⟨_, rfl, hostRead_keeps (time_keeps _ s)⟩
  | .freeCountLowRead => ⟨_, rfl, hostRead_keeps (pool_keeps rfl rfl)⟩
  | .inboundHoldLowRead => ⟨_, rfl, hostRead_keeps (pool_keeps rfl rfl)⟩
  | .writeCountLowRead => ⟨_, rfl, hostRead_keeps (compose_keeps rfl)⟩
  | .ceilingLowWrite _ => ⟨_, rfl, hostWrite_keeps (host_keeps rfl)⟩
  | .ceilingHighWrite v => ⟨_, rfl, hostWrite_keeps (writeCeilingHigh_keeps v s)⟩
  | .linkSelectWrite v => ⟨_, rfl, hostWrite_keeps (writeLinkSelect_keeps v s)⟩
  | .configurationWrite a v => ⟨_, rfl, hostWrite_keeps (windowWrite_keeps a v s)⟩
  | .characterReceived L b => ⟨_, rfl, receiveCharacter_keeps L b s⟩

/-- Every step keeps the holders, the blocks and the inbound holds. -/
theorem step_keeps {s t : State} (h : step s = .next t) : Keeps s t := by
  unfold step at h
  split at h
  · cases h; exact clockPeriod_keeps s
  · next c rest _ =>
    obtain ⟨u, hu, k⟩ := exec_keeps c { s with pending := rest }
    obtain rfl : u = t := by rw [hu] at h; exact Host.Outcome.next.inj h
    exact (pending_keeps rest s).trans k

/-! ### The two invariants -/

/-- During initialisation no link runs. -/
theorem accounted_of_quiet {s : State} (h : BlocksAccounted s) (quiet : QuietWhileInitialising s) : Accounted s where
  blocks := h
  running L hr := by
    cases hd : s.host.device with
    | ready => rfl
    | initialising => simp [quiet.links hd L] at hr

/-- Settles O58: every operation moves each block it takes from one place to one other. -/
theorem everyStepKeepsTheBlocksAccounted : Obligations.EveryStepKeepsTheBlocksAccounted :=
  fun _ _ holders quiet blocks h => ((step_keeps h).blocks holders (accounted_of_quiet blocks quiet)).blocks

/-- Settles O59: a reassembly claim is made below the ceiling, no other operation adds to the hold, and no ceiling is
set below it. -/
theorem everyStepKeepsTheHoldWithinTheCeiling : Obligations.EveryStepKeepsTheHoldWithinTheCeiling :=
  fun _ _ holders hold h => (step_keeps h).hold holders hold

end Sys2Proof.Steps
end

section
/-! PROOFS. The model's shared operations in the words of the statements: what a port, the pool, the descriptors and the
notice queue are after each. -/

namespace Sys2Proof.Steps

open Sys2Proof.Machine Sys2Proof.Safety Sys2Proof.Statement

/-! ### Ports -/

theorem clearHandedOver_eq (L : Link) (s : State) : clearHandedOver L s = s.setPort L (taken (s.port L)) := rfl

theorem count_eq_counted (L : Link) (c : CounterName) (s : State) :
    count L c s = s.setPort L (counted c (s.port L)) := by
  cases c <;> rfl

theorem joinRequest_eq_requested (L : Link) (r : Request) (s : State) :
    joinRequest L r s = s.setPort L (requested r (s.port L)) := joinRequest_eq L r s

theorem answerFragment_eq_replied (L : Link) (f : Fragment) (k : RequestKind) (s : State) :
    answerFragment L f k s = s.setPort L (replied k f (s.port L)) := by
  unfold answerFragment replied
  by_cases h : f.final = true ∧ f.broadcast = false
  · rw [if_pos (by simpa using h), if_pos h, joinRequest_eq_requested]
  · rw [if_neg (by simpa using h), if_neg h, State.setPort_port_eq]

theorem dropNoContext_eq (L : Link) (f : Fragment) (s : State) :
    dropNoContext L f s =
      s.setPort L (replied (.refuse .noContext) f (lossy (counted .noContextDrops (s.port L)))) := by
  rw [dropNoContext, answerFragment_eq_replied, setLoss, count_eq_counted]
  simp only [State.setPort_setPort, State.setPort_port_self]
  rfl

theorem dropNoBlock_eq (L : Link) (f : Fragment) (s : State) :
    dropNoBlock L f s = s.setPort L (replied (.refuse .noBlock) f (lossy (counted .noBlockDrops (s.port L)))) := by
  rw [dropNoBlock, answerFragment_eq_replied, setLoss, count_eq_counted]
  simp only [State.setPort_setPort, State.setPort_port_self]
  rfl

/-! ### The pool, the descriptors and the notices -/

theorem returned_returnBlocks (bs : List BlockNo) (s : State) : Returned bs s.pool (returnBlocks bs s).pool :=
  ⟨rfl, look_foldl_put_zero bs _, rfl⟩

theorem onlyDescriptor_setDesc {s t : State} {d : DescNo} {x : Descriptor}
    (h : t.table.descriptors = s.table.descriptors.put d x) : OnlyDescriptor d x s t := by
  unfold OnlyDescriptor State.desc
  rw [h]
  exact ⟨Table.look_put_self .., fun i hi => Table.look_put_ne _ _ hi⟩

theorem recordNotice_eq_offered (n : Notice) (s : State) :
    recordNotice n s = { s with notices := offered n s.notices } := by
  rw [recordNotice_eq, recordNotice_notices]; rfl

/-- A block granted and the payload stored in it. -/
theorem storedIn_storePayload {b : BlockNo} {bytes : List Byte} {rest : List BlockNo} {s : State} (hm : MemorySound s)
    (h : s.pool.freeList = b :: rest) :
    StoredIn b bytes s.pool (storePayload b bytes
      { s with pool := { s.pool with freeList := rest, usedLength := s.pool.usedLength.put b 0 } }).pool where
  list := h
  used := Table.put_put ..
  inside o ho := by
    show Memory.read (Memory.writeBytes _ (64 * b.val + 0) bytes) _ = _
    rw [Memory.read_writeBytes hm]
    simp [ho]
  outside a ha := by
    show Memory.read (Memory.writeBytes _ (64 * b.val + 0) bytes) _ = _
    rw [Memory.read_writeBytes hm]
    exact dif_neg fun ⟨low, high⟩ => ha (a - 64 * b.val) (by omega) (by omega)
  rest := rfl

/-- An abandoned context, recorded: what the whole state is then. -/
theorem abandonContext_recorded {s : State} {e : EntryNo} {c : Context} (hc : s.context e = some c) (n : Notice) :
    let t := recordNotice n (abandonContext e s)
    t.context e = none ∧ (∀ e', e' ≠ e → t.context e' = s.context e') ∧
      Returned (blocksOf c) s.pool t.pool ∧ OnlyDescriptor c.descriptor .cleared s t ∧
      t.notices = offered n s.notices ∧
      t = { s with
        pool := t.pool, notices := t.notices,
        table := { s.table with descriptors := t.table.descriptors },
        reasm := { s.reasm with contexts := t.reasm.contexts } } := by
  rw [abandonContext_eq hc, recordNotice_eq_offered]
  exact ⟨Table.look_put_self .., fun i hi => Table.look_put_ne _ _ hi, returned_returnBlocks _ s,
    onlyDescriptor_setDesc rfl, rfl, rfl⟩

theorem endOutbound_ended {L : Link} {d : DescNo} {s t : State} (q : NoticeQueue) (ports : Table LinkPort 4)
    (h : t = endOutbound L d { s with notices := q, ports := ports }) : Ended L d q ports s t := by
  subst h
  exact ⟨returned_returnBlocks _ s, onlyDescriptor_setDesc rfl, rfl, rfl⟩

theorem finishDone_eq (L : Link) (d : DescNo) (s : State) :
    finishDone L d s = endOutbound L d { s with
      notices := if (s.sch L).reportDone = true then offered (doneNotice L d s) s.notices else s.notices } := by
  unfold finishDone
  by_cases h : (s.sch L).reportDone = true
  · rw [if_pos h, if_pos h, recordNotice_eq_offered]; rfl
  · rw [if_neg h, if_neg h]

/-! ### Keys, entries and claims -/

theorem map_keyOf_eq_some {x : Option Context} {k : Link × Byte × Tag} :
    x.map keyOf = some k ↔ ∃ c, x = some c ∧ c.link = k.1 ∧ c.origin = k.2.1 ∧ c.tag = k.2.2 := by
  simp [Option.map_eq_some_iff, keyOf, Prod.ext_iff]

theorem newKey_iff {L : Link} {f : Fragment} {s : State} :
    NewKey L f s ↔ (⟨f.origin, f.tag⟩ : Key) ∉ s.history L ∧ s.findContext L f.origin f.tag = none := by
  rw [findContext_eq_none]
  refine and_congr_right fun _ => forall_congr' fun e => ?_
  simp only [ne_eq, map_keyOf_eq_some, not_exists, not_and]

theorem findContext_of_knownKey {L : Link} {f : Fragment} {e : EntryNo} {c : Context} {s : State}
    (h : KnownKey L f e c s) : s.findContext L f.origin f.tag = some e := by
  obtain ⟨-, hc, hk, first⟩ := h
  rw [findContext_eq_some_iff]
  refine ⟨⟨c, hc, by simpa [keyOf, Prod.ext_iff] using hk⟩, fun i hi c' hc' hk' => first i hi ?_⟩
  exact map_keyOf_eq_some.2 ⟨c', hc', hk'⟩

/-- The fragment handed over is taken from the port before it is judged (R66, R67). -/
theorem exec_fragment {L : Link} {f : Fragment} {s : State} (h : Taking L f s) :
    exec (.fragment L) s = .next (takeFragment L f (s.setPort L (taken (s.port L)))) := by
  show Host.Outcome.next (takeHandedFragment L s) = _
  simp [takeHandedFragment, h.1, h.2, clearHandedOver_eq]

theorem exec_fragment_newKey {L : Link} {f : Fragment} {s : State} (h : Taking L f s) (k : NewKey L f s) :
    exec (.fragment L) s = .next (createContext L f (s.setPort L (taken (s.port L)))) := by
  obtain ⟨hk, hn⟩ := newKey_iff.1 (show NewKey L f (s.setPort L (taken (s.port L))) from k)
  rw [exec_fragment h]
  simp only [takeFragment, hk, hn, if_false]

theorem exec_fragment_knownKey {L : Link} {f : Fragment} {e : EntryNo} {c : Context} {s : State} (h : Taking L f s)
    (k : KnownKey L f e c s) :
    exec (.fragment L) s = .next (continueContext L e c f (s.setPort L (taken (s.port L)))) := by
  have k' : KnownKey L f e c (s.setPort L (taken (s.port L))) := k
  rw [exec_fragment h]
  simp only [takeFragment, k'.1, findContext_of_knownKey k', k'.2.1, if_false]

/-- A claim granted: the head of the free list. -/
theorem reassemblyClaim_of_granted {L : Link} {s : State} {b : BlockNo} {rest : List BlockNo} (h : BlockGranted L s)
    (hb : s.pool.freeList = b :: rest) :
    reassemblyClaim L s = some (b,
      { s with pool := { s.pool with freeList := rest, usedLength := s.pool.usedLength.put b 0 } }) :=
  reassemblyClaim_eq_some.2 ⟨h.1, inboundHold_eq_holdOf L s ▸ h.2, grantBlock_eq_some.2 ⟨rest, hb, rfl⟩⟩

theorem reassemblyClaim_of_not_granted {L : Link} {s : State} (h : ¬ BlockGranted L s) : reassemblyClaim L s = none :=
  reassemblyClaim_eq_none.2 (by rw [inboundHold_eq_holdOf]; exact h)

/-- The claim of a descriptor changes no inbound hold. -/
theorem blockGranted_setDesc {L : Link} {s : State} {d : DescNo} {x : Descriptor} (hd : (s.desc d).state = .free)
    (hx : x.state = .assembling) : BlockGranted L (s.setDesc d x) ↔ BlockGranted L s := by
  have hold := inboundHold_setDesc s L d x
  rw [descriptorHold_of_not L (x := x) (by simp [hx]), descriptorHold_of_not L (x := s.desc d) (by simp [hd])] at hold
  unfold BlockGranted
  rw [← inboundHold_eq_holdOf, ← inboundHold_eq_holdOf, Nat.add_right_cancel hold]
  rfl

/-- The context is whole with the fragment when it has received exactly the fragments up to the final one (R79). -/
theorem contextWhole_contextWith {c : Context} {f : Fragment} {b : Option BlockNo} :
    contextWhole (contextWith c f b) = true ↔ ∃ last, WholeWith c f last := by
  have received (n last : FragNo) : ((c.received.put f.number true).look n == decide (n ≤ last)) = true ↔
      (n ≤ last ↔ n = f.number ∨ c.received.look n = true) := by
    rw [Table.look_put, beq_iff_eq]
    split
    · next h => simp [h]
    · next h => cases c.received.look n <;> simp [h]
  cases hl : (if f.final = true then some f.number else c.final) with
  | none => simp [contextWhole, contextWith, hl]
  | some last =>
    have whole : contextWhole (contextWith c f b) = true ↔
        ∀ n : FragNo, n ≤ last ↔ n = f.number ∨ c.received.look n = true := by
      simp [contextWhole, contextWith, hl, received]
    rw [whole]
    exact ⟨fun h => ⟨last, hl, h⟩, fun ⟨_, hl', h⟩ => by cases hl.symm.trans hl'; exact h⟩

theorem not_contextWhole {c : Context} {f : Fragment} {b : Option BlockNo} (h : ∀ last, ¬ WholeWith c f last) :
    contextWhole (contextWith c f b) ≠ true := by
  rw [ne_eq, contextWhole_contextWith]
  exact not_exists.2 h

end Sys2Proof.Steps
end

section
/-! PROOFS. The reassembly unit: fragments stored, completed, dropped and malformed, and contexts that expire (chapters
5 and 6). -/

namespace Sys2Proof.Steps

open Sys2Proof.Machine Sys2Proof.Safety Sys2Proof.Statement

/-! ### Abandoned contexts (R75, R76, R83) -/

/-- Settles O11: at its deadline a context is abandoned and recorded. -/
theorem contextExpiryAbandonsTheContext : Obligations.ContextExpiryAbandonsTheContext := by
  intro s e c hc hd
  have expired : lifetimeExpiry e s = expireContext e c s := by simp [lifetimeExpiry, State.contextDue, hc, hd]
  exact ⟨_, congrArg Host.Outcome.next expired, abandonContext_recorded hc _⟩

/-- Settles O20: a fragment that conflicts is a case of its own, in which its context is abandoned and recorded. -/
theorem malformedMessageIsAbandoned : Obligations.MalformedMessageIsAbandoned := by
  intro s L f e c ht hk hn conflict
  have malformed : continueContext L e c f (s.setPort L (taken (s.port L))) =
      abandonMalformed L e c (s.setPort L (taken (s.port L))) := by
    simp [continueContext, hn, conflicts_iff.2 conflict]
  refine ⟨_, exec_fragment_knownKey ht hk, ?_⟩
  rw [malformed]
  exact abandonContext_recorded (s := s.setPort L (taken (s.port L))) hk.2.1 _

/-! ### Fragments without room (R69 to R71, R77) -/

theorem createContext_no_entry {L : Link} {f : Fragment} {s : State} (h : ∀ e, s.context e ≠ none) :
    createContext L f s = dropNoContext L f s := by
  simp [createContext, freeEntry_eq_none.2 h]

theorem createContext_no_quota {L : Link} {f : Fragment} {s : State} (h : s.reasm.quota.look L ≤ contextsOf L s) :
    createContext L f s = dropNoContext L f s := by
  unfold createContext
  split
  · rfl
  · rw [contextCount_eq_contextsOf, if_neg (by omega)]

theorem createContext_no_descriptor {L : Link} {f : Fragment} {s : State} (h : ∀ d, (s.desc d).state ≠ .free) :
    createContext L f s = dropNoContext L f s := by
  unfold createContext
  split
  · rfl
  · rw [claimDescriptor_eq_none.2 (lowestFree_eq_none.2 h), ite_self]

section

variable {L : Link} {f : Fragment} {e : EntryNo} {d : DescNo} {s : State}

/-- With an entry, quota room and a descriptor, a refused claim of a block drops a fragment with a payload. -/
theorem createContext_of_refused (he : LowestEntry e s) (hq : contextsOf L s < s.reasm.quota.look L)
    (hd : LowestFree d s) (hp : f.payload ≠ [])
    (claim : reassemblyClaim L (s.setDesc d (assemblingRecord L f)) = none) :
    createContext L f s = dropNoBlock L f (freeDescriptor d (s.setDesc d (assemblingRecord L f))) := by
  have descriptor : claimDescriptor (assemblingRecord L f) s = some (d, s.setDesc d (assemblingRecord L f)) :=
    claimDescriptor_eq_some.2 ⟨lowestFree_eq_some.2 hd, rfl⟩
  simp only [createContext, freeEntry_eq_some_iff.2 he, contextCount_eq_contextsOf, if_pos hq, descriptor, if_neg hp,
    claim]

/-- With an entry, quota room and a descriptor, a granted claim of a block creates the context. -/
theorem createContext_of_claimed {b : BlockNo} {t : State} (he : LowestEntry e s)
    (hq : contextsOf L s < s.reasm.quota.look L) (hd : LowestFree d s) (hp : f.payload ≠ [])
    (claim : reassemblyClaim L (s.setDesc d (assemblingRecord L f)) = some (b, t)) :
    createContext L f s = storeFragment e (newContext L f d t) f (some b) t := by
  have descriptor : claimDescriptor (assemblingRecord L f) s = some (d, s.setDesc d (assemblingRecord L f)) :=
    claimDescriptor_eq_some.2 ⟨lowestFree_eq_some.2 hd, rfl⟩
  simp only [createContext, freeEntry_eq_some_iff.2 he, contextCount_eq_contextsOf, if_pos hq, descriptor, if_neg hp,
    claim]

end

/-- There is a lowest FREE entry when there is one, and a lowest FREE descriptor. -/
theorem exists_lowestEntry {s : State} (h : ∃ e, s.context e = none) : ∃ e, LowestEntry e s := by
  obtain ⟨e, he⟩ := h
  obtain hn | ⟨i, hi⟩ := Option.eq_none_or_eq_some s.freeEntry
  · exact absurd he (freeEntry_eq_none.1 hn e)
  · exact ⟨i, freeEntry_eq_some_iff.1 hi⟩

theorem exists_lowestFree {s : State} (h : ∃ d, (s.desc d).state = .free) : ∃ d, LowestFree d s := by
  obtain ⟨d, hd⟩ := h
  obtain hn | ⟨i, hi⟩ := Option.eq_none_or_eq_some s.lowestFree
  · exact absurd hd (lowestFree_eq_none.1 hn d)
  · exact ⟨i, lowestFree_eq_some.1 hi⟩

/-- A new message whose block claim is refused leaves the message table as it was. -/
theorem createContext_no_block {L : Link} {f : Fragment} {s : State} (holders : HoldersSound s)
    (he : ∃ e, s.context e = none) (hq : contextsOf L s < s.reasm.quota.look L) (hd : ∃ d, (s.desc d).state = .free)
    (hp : f.payload ≠ []) (refused : ¬ BlockGranted L s) : createContext L f s = dropNoBlock L f s := by
  obtain ⟨e, he⟩ := exists_lowestEntry he
  obtain ⟨d, hd⟩ := exists_lowestFree hd
  have still : ¬ BlockGranted L (s.setDesc d (assemblingRecord L f)) := fun h =>
    refused ((blockGranted_setDesc hd.1 rfl).1 h)
  rw [createContext_of_refused he hq hd hp (reassemblyClaim_of_not_granted still), freeDescriptor,
    State.setDesc_setDesc, ← holders.freeCleared d hd.1, State.setDesc_desc_eq]

/-- A fragment with a payload that its context takes, when no block is granted. -/
theorem continueContext_no_block {L : Link} {e : EntryNo} {c : Context} {f : Fragment} {s : State}
    (hn : c.received.look f.number = false) (hc : ¬ Conflicts c f) (hp : f.payload ≠ [])
    (refused : ¬ BlockGranted L s) : continueContext L e c f s = dropNoBlock L f s := by
  simp [continueContext, hn, conflicts_iff, hc, hp, reassemblyClaim_of_not_granted refused]

/-- Settles O19: the entry, the quota room, the descriptor and the block are tested in turn, and the first refusal drops
the fragment. -/
theorem fragmentsWithoutRoomAreDropped : Obligations.FragmentsWithoutRoomAreDropped := by
  intro s L f ht
  have port (p : LinkPort) : ((s.setPort L (taken (s.port L))).setPort L p) = { s with ports := s.ports.put L p } :=
    State.setPort_setPort ..
  refine ⟨fun hk room => ?_, fun holders hp refused room => ?_⟩
  · have dropped : createContext L f (s.setPort L (taken (s.port L))) =
        dropNoContext L f (s.setPort L (taken (s.port L))) := by
      obtain entry | quota | descriptor := room
      · exact createContext_no_entry entry
      · exact createContext_no_quota quota
      · exact createContext_no_descriptor descriptor
    rw [exec_fragment_newKey ht hk, dropped, dropNoContext_eq, State.setPort_port_self, port]
  · have dropped : exec (.fragment L) s = .next (dropNoBlock L f (s.setPort L (taken (s.port L)))) := by
      obtain ⟨hk, he, hq, hd⟩ | ⟨e, c, hk, hn, hc⟩ := room
      · rw [exec_fragment_newKey ht hk]
        exact congrArg _
          (createContext_no_block ((clearHandedOver_keeps L s).holders holders) he hq hd hp refused)
      · rw [exec_fragment_knownKey ht hk]
        exact congrArg _ (continueContext_no_block hn hc hp refused)
    rw [dropped, dropNoBlock_eq, State.setPort_port_self, port]

/-! ### Fragments stored (R72, R78) -/

/-- The state with the head of the free list granted and the payload stored in it. -/
def withPayload (b : BlockNo) (rest : List BlockNo) (payload : List Byte) (s : State) : State :=
  storePayload b payload
    { s with pool := { s.pool with freeList := rest, usedLength := s.pool.usedLength.put b 0 } }

/-- A new message with a block granted is stored in a new context. -/
theorem createContext_granted {L : Link} {f : Fragment} {e : EntryNo} {d : DescNo} {b : BlockNo} {rest : List BlockNo}
    {s : State} (he : LowestEntry e s) (hq : contextsOf L s < s.reasm.quota.look L) (hd : LowestFree d s)
    (hp : f.payload ≠ []) (granted : BlockGranted L s) (hb : s.pool.freeList = b :: rest) :
    createContext L f s =
      let c := contextWith (newContext L f d s) f (some b)
      let t := (withPayload b rest f.payload (s.setDesc d (assemblingRecord L f))).setContext e (some c)
      if contextWhole c then completeContext e c t else t := by
  have claim := reassemblyClaim_of_granted
    ((blockGranted_setDesc (x := assemblingRecord L f) hd.1 rfl).2 granted) (rest := rest) hb
  rw [createContext_of_claimed he hq hd hp claim]
  rfl

/-- A fragment with a payload that its context takes, when a block is granted. -/
theorem continueContext_granted {L : Link} {f : Fragment} {e : EntryNo} {c : Context} {b : BlockNo}
    {rest : List BlockNo} {s : State} (hn : c.received.look f.number = false) (hc : ¬ Conflicts c f)
    (hp : f.payload ≠ []) (granted : BlockGranted L s) (hb : s.pool.freeList = b :: rest) :
    continueContext L e c f s =
      let c := contextWith c f (some b)
      let t := (withPayload b rest f.payload s).setContext e (some c)
      if contextWhole c then completeContext e c t else t := by
  have claim := reassemblyClaim_of_granted granted hb
  simp only [continueContext, hn, conflicts_iff, hc, hp, claim, if_false, Bool.false_eq_true]
  rfl

theorem freeList_of_head? {α : Type} {l : List α} {b : α} (h : l.head? = some b) : ∃ rest, l = b :: rest := by
  cases l with
  | nil => cases h
  | cons a l => cases h; exact ⟨l, rfl⟩

/-- A first fragment other than a final fragment 0 does not make its context whole. -/
theorem not_wholeWith_newContext {L : Link} {f : Fragment} {d : DescNo} {s : State} {last : FragNo}
    (h : ¬ (f.final = true ∧ f.number = 0)) : ¬ WholeWith (newContext L f d s) f last := by
  rintro ⟨hl, received⟩
  have zero := (received 0).1 (Fin.zero_le _)
  simp only [newContext, Table.look_fill, Bool.false_eq_true, or_false] at zero
  by_cases hf : f.final = true
  · exact h ⟨hf, zero.symm⟩
  · simp [hf, newContext] at hl

/-- Settles O21: a block granted and no whole context leave the fragment stored in its slot. -/
theorem fragmentsAreStoredInTheirContexts : Obligations.FragmentsAreStoredInTheirContexts := by
  refine ⟨fun s L f e d b hm ht hk he hq hd hp granted hb hw => ?_,
    fun s L f e c b hm ht hk hn hc hp granted hb hw => ?_⟩
  · obtain ⟨rest, hb⟩ := freeList_of_head? hb
    let u := s.setPort L (taken (s.port L))
    have part : contextWhole (contextWith (newContext L f d u) f (some b)) ≠ true :=
      not_contextWhole fun _ => not_wholeWith_newContext hw
    refine ⟨_, exec_fragment_newKey ht hk, ?_⟩
    rw [createContext_granted (s := u) he hq hd hp granted hb, if_neg part]
    exact ⟨storedIn_storePayload hm hb, Table.look_put_self .., fun i hi => Table.look_put_ne _ _ hi,
      onlyDescriptor_setDesc rfl, rfl⟩
  · obtain ⟨rest, hb⟩ := freeList_of_head? hb
    let u := s.setPort L (taken (s.port L))
    have part : contextWhole (contextWith c f (some b)) ≠ true := not_contextWhole hw
    refine ⟨_, exec_fragment_knownKey ht hk, ?_⟩
    rw [continueContext_granted (s := u) hn hc hp granted hb, if_neg part]
    exact ⟨storedIn_storePayload hm hb, Table.look_put_self .., fun i hi => Table.look_put_ne _ _ hi, rfl⟩

/-! ### Messages completed (R79 to R81, R91) -/

/-- In `t` the context `c` of entry `e` has been completed: what has changed since `s`. -/
structure Completed (e : EntryNo) (c : Context) (s t : State) : Prop where
  descriptor : OnlyDescriptor c.descriptor (completedDescriptor c s) s t
  ready : t.ready c.link = s.ready c.link ++ [c.descriptor]
  otherQueues : ∀ L, L ≠ c.link → t.ready L = s.ready L
  entry : t.context e = none
  otherEntries : ∀ e', e' ≠ e → t.context e' = s.context e'
  history : t.history c.link = appendKey ⟨c.origin, c.tag⟩ (s.history c.link)
  otherHistories : ∀ L, L ≠ c.link → t.history L = s.history L
  rest : t = { s with
    ports := s.ports.put c.link
      (if (s.desc c.descriptor).broadcast = true then s.port c.link
        else requested ⟨.ack, c.origin, c.tag⟩ (s.port c.link))
    table := t.table
    reasm := { s.reasm with contexts := t.reasm.contexts, history := t.reasm.history } }

theorem completeContext_completed (e : EntryNo) (c : Context) (s : State) :
    Completed e c s (completeContext e c s) := by
  have parts : completeContext e c s =
      ((((s.setDesc c.descriptor (completedDescriptor c s)).setReady c.link
        (s.ready c.link ++ [c.descriptor])).setContext e none).setHistory c.link
          (appendKey ⟨c.origin, c.tag⟩ (s.history c.link))).setPort c.link
            (if (s.desc c.descriptor).broadcast = true then s.port c.link
              else requested ⟨.ack, c.origin, c.tag⟩ (s.port c.link)) := by
    have broadcast : (completedDescriptor c s).broadcast = (s.desc c.descriptor).broadcast := rfl
    simp only [completeContext, broadcast]
    split
    · exact (State.setPort_port_eq ..).symm
    · exact joinRequest_eq_requested ..
  rw [parts]
  exact ⟨onlyDescriptor_setDesc rfl, Table.look_put_self .., fun i hi => Table.look_put_ne _ _ hi,
    Table.look_put_self .., fun i hi => Table.look_put_ne _ _ hi, Table.look_put_self ..,
    fun i hi => Table.look_put_ne _ _ hi, rfl⟩

theorem appendKey_eq (k : Key) (h : List Key) : appendKey k h = (if h.length < 16 then h else h.tail) ++ [k] := by
  unfold appendKey Config.historyCapacity
  split <;> rfl

theorem wholeLength_eq {c : Context} {last : FragNo} (h : c.final = some last) (s : State) :
    wholeLength c s = 64 * last.val + ((c.slots.look last).map s.pool.usedLength.look).getD 0 := by
  simp only [wholeLength, h]
  cases c.slots.look last <;> rfl

/-- Settles O23: the fragment is stored, and its context, then whole, is completed. -/
theorem wholeMessageIsCompleted : Obligations.WholeMessageIsCompleted := by
  intro s L f e c b last hm ht hk hn hc hp granted hb whole
  obtain ⟨rest, hb⟩ := freeList_of_head? hb
  obtain ⟨rfl, ho, htag⟩ : c.link = L ∧ c.origin = f.origin ∧ c.tag = f.tag := by
    simpa [keyOf, Prod.ext_iff] using hk.2.2.1
  let u := s.setPort c.link (taken (s.port c.link))
  let c' := contextWith c f (some b)
  let v := (withPayload b rest f.payload u).setContext e (some c')
  have completes : contextWhole c' = true := contextWhole_contextWith.2 ⟨last, whole⟩
  have stored : StoredIn b f.payload s.pool v.pool := storedIn_storePayload (s := u) hm hb
  have record : completedDescriptor c' v = { s.desc c.descriptor with
      state := .ready
      length := 64 * last.val + (((c.slots.put f.number (some b)).look last).map v.pool.usedLength.look).getD 0
      fragmentCount := some (last.val + 1)
      chain := (List.finRange 16).filterMap (c.slots.put f.number (some b)).look
      stamp := some s.now
      age := 0 } := by
    rw [completedDescriptor, wholeLength_eq (c := c') whole.1, show c'.final = some last from whole.1]
    rfl
  have port : v.port c.link = taken (s.port c.link) := State.setPort_port_self ..
  have event : exec (.fragment c.link) s = .next (completeContext e c' v) := by
    rw [exec_fragment_knownKey ht hk, continueContext_granted (s := u) hn hc hp granted hb, if_pos completes]
  obtain ⟨descriptor, ready, otherQueues, entry, otherEntries, history, otherHistories, frame⟩ :=
    completeContext_completed e c' v
  generalize completeContext e c' v = t at *
  have pool : t.pool = v.pool := by rw [frame]
  rw [record, ← pool] at descriptor
  rw [appendKey_eq] at history
  rw [show c'.link = c.link from rfl, port, show v.ports = s.ports.put c.link (taken (s.port c.link)) from rfl,
    Table.put_put] at frame
  rw [← ho, ← htag]
  refine ⟨t, event, pool ▸ stored, descriptor, ready, otherQueues, entry, fun i hi => ?_, history, otherHistories, ?_⟩
  · exact (otherEntries i hi).trans (Table.look_put_ne _ _ hi)
  · rw [pool]; exact frame

/-! ### Acknowledgements (R153, R159) -/

/-- Settles O24: the first message that matches ends, in whichever state it is outstanding. -/
theorem ackEndsTheMatchedMessage : Obligations.AckEndsTheMatchedMessage := by
  intro s L origin tag d ht hm
  have found : (s.setPort L (taken (s.port L))).matching L origin tag = some d := matching_eq_some_iff.2 hm
  have done : takeHandedAck L s = finishDone L d (s.setPort L (taken (s.port L))) := by
    simp [takeHandedAck, takeAck, ht, clearHandedOver_eq, found]
  refine ⟨_, congrArg Host.Outcome.next done, endOutbound_ended _ _ ?_⟩
  rw [finishDone_eq]
  rfl

end Sys2Proof.Steps
end

section
/-! PROOFS. RELEASE, the compose unit, the writes of link select and of the inbound ceiling, the end of initialisation,
and the reset state. -/

namespace Sys2Proof.Steps

open Sys2Proof.Machine Sys2Proof.Safety Sys2Proof.Statement

/-! ### RELEASE (R118) -/

/-- A freed message that was in the service context no longer counts in the hold of its link. -/
theorem holdOf_freeMessage {s : State} {d : DescNo} (h : (s.desc d).state = .service) :
    holdOf (s.desc d).link (freeMessage d s) + (s.desc d).chain.length = holdOf (s.desc d).link s ∧
      ∀ L, L ≠ (s.desc d).link → holdOf L (freeMessage d s) = holdOf L s := by
  have hold (L : Link) : (freeMessage d s).inboundHold L + descriptorHold L (s.desc d) = s.inboundHold L := by
    have := inboundHold_setDesc (returnBlocks (s.desc d).chain s) L d .cleared
    rwa [descriptorHold_cleared, returnBlocks_desc, inboundHold_returnBlocks, Nat.add_zero] at this
  simp only [← inboundHold_eq_holdOf]
  refine ⟨?_, fun L hL => ?_⟩
  · rw [← hold, descriptorHold, if_pos ⟨rfl, .inr h⟩]
  · rw [← hold, descriptorHold, if_neg fun k => hL k.1.symm, Nat.add_zero]

/-- Settles O39: the message in the service context is freed, and the context is emptied. -/
theorem releaseFreesTheMessage : Obligations.ReleaseFreesTheMessage := by
  intro s source bid d operational holders serving
  have held : (s.desc d).state = .service := holders.service d (by simp [State.serviceDescriptor, serving])
  obtain ⟨fell, others⟩ := holdOf_freeMessage held
  have body : releaseBody s = (emptyService (freeMessage d s), .ok) := by simp only [releaseBody, serving]
  refine ⟨_, congrArg Host.Outcome.next (issueCommand_operational operational), ?_⟩
  rw [body]
  exact ⟨returned_returnBlocks _ s, onlyDescriptor_setDesc rfl, fell, others, rfl⟩

/-! ### The compose unit (R133 to R135, R138, R140) -/

/-- Settles O44: with the context closed both commands are refused, and else each does what its own rule says. -/
theorem composeSubmitAndCancelCloseTheContext : Obligations.ComposeSubmitAndCancelCloseTheContext := by
  intro s operational
  have submit : exec .composeSubmit s = .next (recordOutcome 0x21 (composeSubmitBody s).2 (composeSubmitBody s).1) :=
    congrArg Host.Outcome.next (issueCommand_operational operational)
  have cancel : exec .composeCancel s = .next (recordOutcome 0x22 (composeCancelBody s).2 (composeCancelBody s).1) :=
    congrArg Host.Outcome.next (issueCommand_operational operational)
  refine ⟨fun closed => ?_, fun d hd => ?_, fun d hd => ⟨_, cancel, ?_⟩⟩
  · rw [submit, cancel, composeSubmitBody, composeCancelBody, closed]
    exact ⟨rfl, rfl⟩
  · rw [submit, composeSubmitBody, hd]
    rfl
  · rw [composeCancelBody, hd]
    exact ⟨returned_returnBlocks _ s, onlyDescriptor_setDesc rfl, rfl⟩

theorem exec_composeDataPortWrite {v : Byte} {s : State} (high : s.host.resetLow = false) :
    exec (.composeDataPortWrite v) s = .next (writeComposePort v s) :=
  congrArg Host.Outcome.next (hostWrite_high high)

/-- A byte for a message below its greatest length: taken when it has a block, and stalled when it has none. -/
theorem writeComposePort_open {v : Byte} {s : State} {d : DescNo} (ready : s.host.device = .ready)
    (hd : s.compose.descriptor = some d) (hl : (s.desc d).length < 1024) :
    (composeBlock d s = none → writeComposePort v s = { s with compose := { s.compose with stalled := true } }) ∧
      ∀ b t, composeBlock d s = some (b, t) → writeComposePort v s = acceptByte d b v t := by
  have below : ¬ Config.maxLength ≤ (s.desc d).length := not_le.2 hl
  exact ⟨fun h => by simp only [writeComposePort, ready, writeComposeByte, hd, if_neg below, h],
    fun b t h => by simp only [writeComposePort, ready, writeComposeByte, hd, if_neg below, h]⟩

/-- A block claimed for the byte that begins it is the head of the free list. -/
theorem composeBlock_of_begins {d : DescNo} {s : State} {b : BlockNo} {rest : List BlockNo}
    (begins : (s.desc d).length % 64 = 0) (free : s.pool.freeList = b :: rest) :
    composeBlock d s = some (b, State.setDesc
      { s with pool := { s.pool with freeList := rest, usedLength := s.pool.usedLength.put b 0 } } d
      { s.desc d with chain := (s.desc d).chain ++ [b] }) := by
  rw [composeBlock, if_pos begins, composeClaim, grantBlock_eq_some.2 ⟨rest, free, rfl⟩]
  rfl

/-- Settles O45: the block that the byte goes into, if there is one, decides. -/
theorem composeDataPortTakesOrRefusesAByte : Obligations.ComposeDataPortTakesOrRefusesAByte := by
  intro s v high
  refine ⟨fun d ⟨ready, hd, hl⟩ begins empty => ?_, fun ready refused => ?_, fun init => ?_,
    fun d b rest ⟨ready, hd, hl⟩ begins free => ?_, fun d b ⟨ready, hd, hl⟩ inside last => ?_,
    fun m k w hm => ⟨?_, fun a ha => ?_⟩⟩
  · have block : composeBlock d s = none := by
      rw [composeBlock, if_pos begins, composeClaim, grantBlock_eq_none.2 empty]
      rfl
    rw [exec_composeDataPortWrite high, (writeComposePort_open ready hd hl).1 block]
  · rw [exec_composeDataPortWrite high]
    obtain closed | ⟨d, hd, full⟩ := refused
    · simp only [writeComposePort, ready, writeComposeByte, closed]
    · have above : Config.maxLength ≤ (s.desc d).length := full
      simp only [writeComposePort, ready, writeComposeByte, hd, if_pos above]
  · rw [exec_composeDataPortWrite high]
    simp only [writeComposePort, init]
  · rw [exec_composeDataPortWrite high,
      (writeComposePort_open ready hd hl).2 _ _ (composeBlock_of_begins begins free)]
    simp only [acceptByte, appendByte, State.setDesc, State.desc, blockAddress, Config.blockSize, Table.look_put_self,
      Table.put_put, Nat.zero_add, Nat.add_zero]
  · have block : composeBlock d s = some (b, s) := by
      rw [composeBlock, if_neg inside, last]
      rfl
    rw [exec_composeDataPortWrite high, (writeComposePort_open ready hd hl).2 _ _ block]
    rfl
  · rw [Memory.read_write hm, if_pos rfl]
  · rw [Memory.read_write hm, if_neg ha]

/-! ### Link select and the inbound ceiling (R37, R180, R185) -/

theorem ceilingAccepts_iff {L : Link} {v : Nat} {s : State} :
    ceilingAccepts L v s = true ↔ 16 ≤ v ∧ v ≤ 512 ∧ (s.port L).state = .off ∧ holdOf L s ≤ v := by
  simp only [ceilingAccepts, Bool.and_eq_true, decide_eq_true_eq, beq_iff_eq, inboundHold_eq_holdOf, and_assoc]

/-- Settles O48: each write is taken in its range and else refused. -/
theorem linkSelectAndCeilingWrites : Obligations.LinkSelectAndCeilingWrites := by
  intro s v high
  have select : exec (.linkSelectWrite v) s = .next (writeLinkSelect v s) :=
    congrArg Host.Outcome.next (hostWrite_high high)
  have ceiling : exec (.ceilingHighWrite v) s = .next (writeCeiling s.host.linkSelect
      (256 * v.toNat + (s.host.ceilingLatch.look s.host.linkSelect).toNat) s) :=
    congrArg Host.Outcome.next (hostWrite_high high)
  refine ⟨fun M hM => ?_, fun large => ?_, congrArg Host.Outcome.next (hostWrite_high high), fun taken => ?_,
    fun refused => ?_⟩
  · have hv : v.toNat < 4 := hM ▸ M.isLt
    rw [select, writeLinkSelect, dif_pos hv, show (⟨v.toNat, hv⟩ : Link) = M from Fin.ext hM]
  · rw [select, writeLinkSelect, dif_neg (by omega)]
    rfl
  · rw [ceiling, writeCeiling, if_pos (ceilingAccepts_iff.2 taken)]
  · rw [ceiling, writeCeiling, if_neg (mt ceilingAccepts_iff.1 refused)]
    rfl

/-! ### The end of initialisation and the reset state (R32, R45, R188, R190, R191) -/

/-- Settles O5: the blocks not yet placed follow those placed, in the order of their numbers. -/
theorem resetLineHighAndFreeListRebuilt : Obligations.ResetLineHighAndFreeListRebuilt := by
  refine ⟨fun s => rfl, fun s k init high placed => ?_⟩
  have rebuilding : s.rebuilding = true := by simp [State.rebuilding, init, high]
  show Host.Outcome.next (if s.rebuilding then finishRebuild s else s) = _
  rw [if_pos rebuilding, finishRebuild, append_blocksToPlace placed]

/-- What a device reset leaves of the contexts, the links and the outstanding messages meets their invariants. -/
theorem deviceReset_linkSound (low : Bool) (s : State) (L : Link) : LinkSound (deviceReset low s) L where
  receiver := by simp [LinkPort.reset]
  handedOver _ := by simp [LinkPort.reset]
  handedFor := by simp [LinkPort.reset]
  buffer _ := by simp [LinkPort.reset]
  bufferSize := by simp [LinkPort.reset]
  control _ := by simp [LinkPort.reset]
  offLine _ := by simp [LinkPort.reset]
  stopping := by simp [LinkPort.reset]
  line := by simp [Scheduler.reset]
  address := by simp [LinkPort.reset]
  contexts _ e c hc := by simp at hc

theorem deviceReset_keysDistinct (low : Bool) (s : State) : KeysDistinct (deviceReset low s) where
  contexts e _ c _ hc := by simp at hc
  history L := by simp
  apart e c hc := by simp at hc

theorem deviceReset_quotaKept (low : Bool) (s : State) : QuotaKept (deviceReset low s) := fun L => by
  simp [contextCount_eq_contextsOf, contextsOf]

theorem deviceReset_outstandingSound (low : Bool) (s : State) : OutstandingSound (deviceReset low s) where
  count L := by simp [Scheduler.reset]
  tagged L d hd := by simp [Scheduler.reset] at hd
  tagsDiffer L d _ hd := by simp [Scheduler.reset] at hd
  attempts L d hd := by simp [Scheduler.reset] at hd
  below L d hd := by simp [Scheduler.reset] at hd

theorem deviceReset_deadlinesAhead (low : Bool) (s : State) : DeadlinesAhead (deviceReset low s) where
  contexts e c hc := by simp at hc
  messages d t hw := by simp [Descriptor.cleared] at hw

/-- Settles O50: the reset state is the state after a device reset, which meets each invariant. -/
theorem resetMeetsTheInvariants : Obligations.ResetMeetsTheInvariants := by
  have reset := Accounted.blocks (deviceReset_accounted false State.reset)
  refine ⟨deviceReset_settingsLegal false State.reset, ⟨by decide, 3, by decide, rfl⟩,
    deviceReset_deadlinesAhead false State.reset, deviceReset_queuesBounded false State.reset,
    deviceReset_linkSound false State.reset, deviceReset_keysDistinct false State.reset,
    deviceReset_quotaKept false State.reset, deviceReset_holdersSound false State.reset,
    deviceReset_outstandingSound false State.reset, reset, fun L => ?_, nofun,
    quietWhileInitialising_iff.2 fun _ => deviceReset_quiet false State.reset, Memory.reset_wf⟩
  exact (deviceReset_inboundHold false State.reset L).le.trans (Nat.zero_le _)

end Sys2Proof.Steps
end

section
/-! PROOFS. The message table and the ready queues: the holders of descriptors, TAKE and TAKE_ANY with the service
window, and COMPOSE_OPEN (chapters 4, 7 and 8). -/

namespace Sys2Proof.Steps

open Sys2Proof.Machine Sys2Proof.Safety Sys2Proof.Statement

/-! ### The holders of descriptors (R49, R54, R144) -/

/-- Settles O56: every change of a step moves a message from one holder to the one that its new state calls for. -/
theorem everyStepKeepsOneHolderPerDescriptor : Obligations.EveryStepKeepsOneHolderPerDescriptor :=
  fun _ _ holders h => (step_keeps h).holders holders

/-! ### The winner (R105, R106, R111) -/

/-- The best candidate so far has the bid it is listed with. -/
def BidsAsListed (s : State) (best : Option (Source × Nat)) : Prop := ∀ w, best = some w → s.bid w.1 = some w.2

theorem betterBid_bidsAsListed {s : State} {best : Option (Source × Nat)} (h : BidsAsListed s best) (x : Source) :
    BidsAsListed s (betterBid s best x) := by
  unfold betterBid
  split
  · exact h
  · next n bid => rintro _ ⟨⟩; exact bid
  · next n y m bid =>
    split
    · rintro _ ⟨⟩; exact bid
    · exact h

theorem foldl_betterBid_bidsAsListed {s : State} (sources : List Source) {best : Option (Source × Nat)}
    (h : BidsAsListed s best) : BidsAsListed s (sources.foldl (betterBid s) best) := by
  induction sources generalizing best with
  | nil => exact h
  | cons x sources ih => exact ih (betterBid_bidsAsListed h x)

/-- The winner is a candidate with the bid it wins with. -/
theorem bid_of_winner {s : State} {w : Source × Nat} (h : s.winner = some w) : s.bid w.1 = some w.2 :=
  foldl_betterBid_bidsAsListed allSources (best := none) nofun w h

theorem winner_eq_none_of_no_bid {s : State} (h : ∀ x, s.bid x = none) : s.winner = none :=
  Option.eq_none_iff_forall_ne_some.2 fun w hw => by
    have := bid_of_winner hw
    rw [h] at this
    cases this

/-! ### What TAKE and TAKE_ANY answer (R113 to R116) -/

theorem takeBody_of_held {s : State} (h : s.arbiter.service ≠ .empty) : takeBody s = (s, .busy) := if_pos h

theorem takeAnyBody_of_held {s : State} (h : s.arbiter.service ≠ .empty) : takeAnyBody s = (s, .busy) := if_pos h

theorem takeAnyBody_of_no_winner {s : State} (empty : s.arbiter.service = .empty) (h : s.winner = none) :
    takeAnyBody s = (s, .none) := by
  rw [takeAnyBody, if_neg (not_not.2 empty), h]

theorem takeAnyBody_of_winner {s : State} {w : Source × Nat} (empty : s.arbiter.service = .empty)
    (h : s.winner = some w) : takeAnyBody s = (takeItem w s, .ok) := by
  rw [takeAnyBody, if_neg (not_not.2 empty), h]

/-- Without a bid above the threshold TAKE finds nothing, whether there is a winner or not. -/
theorem takeBody_of_low {s : State} (empty : s.arbiter.service = .empty)
    (low : ∀ x m, s.bid x = some m → m ≤ s.arbiter.threshold) : takeBody s = (s, .none) := by
  rw [takeBody, if_neg (not_not.2 empty)]
  cases hw : s.winner with
  | none => rfl
  | some w => exact if_neg (not_lt.2 (low _ _ (bid_of_winner hw)))

theorem takeBody_of_winner {s : State} {w : Source × Nat} (empty : s.arbiter.service = .empty)
    (h : s.winner = some w) (above : s.arbiter.threshold < w.2) : takeBody s = (takeItem w s, .ok) := by
  rw [takeBody, if_neg (not_not.2 empty), h]
  exact if_pos above

theorem takeItem_link {s : State} {L : Link} {n : Nat} {d : DescNo} {rest : List DescNo} (h : s.ready L = d :: rest) :
    takeItem (.link L, n) s =
      serveItem (.message L n d) ((s.setReady L rest).setDesc d { s.desc d with state := .service }) := by
  simp only [takeItem, h]

theorem takeItem_noticeQueue {s : State} {n : Nat} {r : Notice} {rest : List Notice}
    (h : s.notices.records = r :: rest) :
    takeItem (.noticeQueue, n) s =
      serveItem (.notice n r) { s with notices := { s.notices with records := rest } } := by
  simp only [takeItem, h]

/-! ### The service window (R122, R123) -/

/-- The fields of the service window as numbers, each at its address; a value of two bytes is at two addresses. -/
def windowField (w : ServiceWindow) : Nat → Nat
  | 0x10 => w.contextState
  | 0x11 => w.source
  | 0x12 => w.bidAtTake
  | 0x13 => w.noticeKind
  | 0x14 => w.link
  | 0x15 => w.peer.toNat
  | 0x16 => if w.broadcast = true then 1 else 0
  | 0x17 => w.tag
  | 0x18 => w.length % 256
  | 0x19 => w.length / 256
  | 0x1A => w.fragmentCount
  | 0x1B => w.stamp % 256
  | 0x1C => w.stamp / 256
  | 0x1D => w.age
  | 0x1E => w.reference.toNat
  | 0x1F => w.attempts
  | 0x20 => w.reason
  | 0x21 => w.firstCount
  | 0x22 => w.secondCount
  | 0x23 => w.thirdCount
  | _ => 0

theorem ofNat_mod_byte (n : Nat) : BitVec.ofNat 8 (n % 256) = lowByte n := by
  rw [lowByte, ← BitVec.toNat_inj]
  simp

theorem readGlobal_serviceWindow (s : State) {a : Nat} (low : 0x10 ≤ a) (high : a ≤ 0x23) :
    readGlobal s a = BitVec.ofNat 8 (windowField s.serviceWindow a) := by
  interval_cases a <;>
    simp only [readGlobal, windowField, onOff_eq, ofNat_mod_byte, BitVec.ofNat_toNat, BitVec.setWidth_eq] <;> rfl

/-- The addresses 10h to 23h show the fields of the service window. -/
theorem shows_serviceWindow {s : State} {fields : Nat → Nat}
    (h : ∀ a, 0x10 ≤ a → a ≤ 0x23 → windowField s.serviceWindow a = fields a) : shows s fields := by
  intro a low high
  have global : a.toNat < 0x40 := by omega
  rw [windowRead, if_pos global, readGlobal_serviceWindow s low high, h _ low high]

theorem windowField_empty {a : Nat} (low : 0x10 ≤ a) (high : a ≤ 0x23) : windowField {} a = 0 := by
  interval_cases a <;> rfl

theorem windowField_message (source : Link) (bid : Nat) (x : Descriptor) {a : Nat} (low : 0x10 ≤ a)
    (high : a ≤ 0x23) : windowField (messageWindow source bid x) a = messageFields source bid x a := by
  interval_cases a <;> rfl

theorem windowField_notice (bid : Nat) (r : Notice) {a : Nat} (low : 0x10 ≤ a) (high : a ≤ 0x23) :
    windowField (noticeWindow bid r) a = noticeFields bid r a := by
  obtain ⟨L, stamp, body⟩ := r
  cases body with
  | txFailed peer tag reference attempts reason =>
    cases reason <;> interval_cases a <;> simp [windowField, noticeWindow, noticeFields, kindFields, FailReason.code]
  | _ => interval_cases a <;> simp [windowField, noticeWindow, noticeFields, kindFields]

/-- Settles O38: a held item, the bids and the threshold decide the answer, and the head of the winner's queue is the
item served. -/
theorem takeServesTheWinner : Obligations.TakeServesTheWinner := by
  intro s n operational
  have take : exec .take s = .next (recordOutcome 0x10 (takeBody s).2 (takeBody s).1) :=
    congrArg Host.Outcome.next (issueCommand_operational operational)
  have takeAny : exec .takeAny s = .next (recordOutcome 0x11 (takeAnyBody s).2 (takeAnyBody s).1) :=
    congrArg Host.Outcome.next (issueCommand_operational operational)
  refine ⟨fun held => ?_, fun empty low => ?_, fun empty none => ?_, fun L d rest empty hw hq => ?_,
    fun r rest empty hw hq => ?_, fun u => ⟨fun empty => ?_, fun source bid d held => ?_, fun bid r held => ?_⟩⟩
  · rw [take, takeAny, takeBody_of_held held, takeAnyBody_of_held held]
    exact ⟨rfl, rfl⟩
  · rw [take, takeBody_of_low empty low]
    rfl
  · rw [takeAny, takeAnyBody_of_no_winner empty (winner_eq_none_of_no_bid none)]
    rfl
  · rw [take, takeAny, takeAnyBody_of_winner empty hw, takeItem_link hq]
    refine ⟨rfl, fun above => ?_⟩
    rw [takeBody_of_winner empty hw above, takeItem_link hq]
    rfl
  · rw [take, takeAny, takeAnyBody_of_winner empty hw, takeItem_noticeQueue hq]
    refine ⟨rfl, fun above => ?_⟩
    rw [takeBody_of_winner empty hw above, takeItem_noticeQueue hq]
    rfl
  · refine shows_serviceWindow fun a low high => ?_
    rw [State.serviceWindow, empty]
    exact windowField_empty low high
  · refine shows_serviceWindow fun a low high => ?_
    rw [State.serviceWindow, held]
    exact windowField_message source bid (u.desc d) low high
  · refine shows_serviceWindow fun a low high => ?_
    rw [State.serviceWindow, held]
    exact windowField_notice bid r low high

/-! ### COMPOSE_OPEN (R50, R131, R132) -/

/-- COMPOSE_OPEN with the context closed, for a link and another station: the claim of a descriptor decides. -/
theorem composeOpenBody_of_destination {s : State} {L : Link} (closed : s.compose.descriptor = none)
    (hL : s.host.p0.toNat = L.val) (nonzero : s.host.p1.toNat ≠ 0)
    (other : s.host.p1.toNat ≠ (s.port L).stationAddress) :
    ((∀ d, (s.desc d).state ≠ .free) → composeOpenBody s = (s, .noResource)) ∧
      ∀ d, LowestFree d s → composeOpenBody s =
        ({ s.setDesc d (composingRecord L s.host.p1 s.host.p2) with compose := { s.compose with
            descriptor := some d, writeCount := 0, stalled := false, overlong := false } }, .ok) := by
  have passes : ¬ (s.host.p1 = 0 ∨ s.host.p1.toNat = (s.port L).stationAddress) :=
    not_or.2 ⟨mt BitVec.toNat_eq.1 nonzero, other⟩
  refine ⟨fun busy => ?_, fun d lowest => ?_⟩
  · simp only [composeOpenBody, closed, linkParameter_eq_some.2 hL, if_neg passes,
      claimDescriptor_eq_none.2 (lowestFree_eq_none.2 busy)]
    rfl
  · simp only [composeOpenBody, closed, linkParameter_eq_some.2 hL, if_neg passes,
      claimDescriptor_eq_some.2 ⟨lowestFree_eq_some.2 lowest, rfl⟩]
    rfl

/-- Settles O43: the tests of COMPOSE_OPEN in their order, and the claim of the lowest FREE descriptor. -/
theorem composeOpenClaimsADescriptor : Obligations.ComposeOpenClaimsADescriptor := by
  intro s operational
  have compose : exec .composeOpen s =
      .next (recordOutcome 0x20 (composeOpenBody s).2 (composeOpenBody s).1) :=
    congrArg Host.Outcome.next (issueCommand_operational operational)
  rw [compose]
  refine ⟨fun opened => ?_, fun closed large => ?_, fun L closed hL => ?_⟩
  · rw [composeOpenBody, if_pos (Option.isSome_iff_ne_none.2 opened)]
    rfl
  · simp only [composeOpenBody, closed, linkParameter_eq_none.2 large]
    rfl
  · refine ⟨fun refused => ?_, fun nonzero other busy => ?_, fun d nonzero other lowest => ?_⟩
    · have fails := refused.imp_left (BitVec.toNat_eq (x := s.host.p1) (y := 0)).2
      simp only [composeOpenBody, closed, linkParameter_eq_some.2 hL, if_pos fails]
      rfl
    · rw [(composeOpenBody_of_destination closed hL nonzero other).1 busy]
      rfl
    · rw [(composeOpenBody_of_destination closed hL nonzero other).2 d lowest]
      rfl

end Sys2Proof.Steps
end

section
/-! PROOFS. The keys of the contexts and of the histories: what it takes to keep them distinct, for a key forgotten, a
key that is new, and a key that moves from a context to the history (R63, R69, R79, R89, R91). -/

namespace Sys2Proof.Steps

open Sys2Proof.Machine Sys2Proof.Safety Sys2Proof.Statement

/-! ### The key that an entry holds -/

/-- The key of the context in an entry, when the entry is IN_USE (R62). -/
def heldKey (s : State) (e : EntryNo) : Option (Link × Byte × Tag) := (s.context e).map keyOf

theorem heldKey_of_context {s : State} {e : EntryNo} {c : Context} (h : s.context e = some c) :
    heldKey s e = some (keyOf c) := by rw [heldKey, h]; rfl

theorem heldKey_setContext (s : State) (e i : EntryNo) (x : Option Context) :
    heldKey (s.setContext e x) i = if i = e then x.map keyOf else heldKey s i := by
  rw [heldKey, State.setContext_context]
  split <;> rfl

/-- The invariant in terms of the keys alone. -/
theorem keysDistinct_iff {s : State} :
    KeysDistinct s ↔ (∀ e e' k, heldKey s e = some k → heldKey s e' = some k → e = e') ∧
      (∀ L, (s.history L).Nodup) ∧ ∀ e L origin tag, heldKey s e = some (L, origin, tag) →
        (⟨origin, tag⟩ : Key) ∉ s.history L := by
  refine ⟨fun h => ⟨fun e e' k he he' => ?_, h.history, fun e L origin tag he => ?_⟩,
    fun ⟨entries, history, apart⟩ => ⟨fun e e' c c' hc hc' hl ho ht => ?_, history, fun e c hc => ?_⟩⟩
  · obtain ⟨c, hc, hl, ho, ht⟩ := map_keyOf_eq_some.1 he
    obtain ⟨c', hc', hl', ho', ht'⟩ := map_keyOf_eq_some.1 he'
    exact h.contexts e e' c c' hc hc' (hl.trans hl'.symm) (ho.trans ho'.symm) (ht.trans ht'.symm)
  · obtain ⟨c, hc, rfl, rfl, rfl⟩ := map_keyOf_eq_some.1 he
    exact h.apart e c hc
  · have same : keyOf c' = keyOf c := by simp only [keyOf, hl, ho, ht]
    exact entries e e' (keyOf c) (heldKey_of_context hc) (same ▸ heldKey_of_context hc')
  · exact apart e _ _ _ (heldKey_of_context hc)

/-! ### Keys forgotten -/

/-- A change that keeps distinct keys distinct. -/
structure KeepsKeys (s t : State) : Prop where
  distinct : KeysDistinct s → KeysDistinct t

theorem KeepsKeys.refl (s : State) : KeepsKeys s s := ⟨id⟩

theorem KeepsKeys.trans {s t u : State} (h : KeepsKeys s t) (k : KeepsKeys t u) : KeepsKeys s u :=
  ⟨k.distinct ∘ h.distinct⟩

/-- The same, last change first. -/
theorem KeepsKeys.after {s t u : State} (k : KeepsKeys t u) (h : KeepsKeys s t) : KeepsKeys s u := h.trans k

/-- Each entry keeps its key or becomes FREE, and the histories only lose keys. -/
theorem keepsKeys_of_fewer {s t : State} (entries : ∀ e, heldKey t e = heldKey s e ∨ heldKey t e = none)
    (history : ∀ L, (t.history L).Sublist (s.history L)) : KeepsKeys s t := by
  have before {e : EntryNo} {k : Link × Byte × Tag} (h : heldKey t e = some k) : heldKey s e = some k := by
    obtain same | free := entries e
    · exact same ▸ h
    · exact absurd h (by simp [free])
  refine ⟨fun h => ?_⟩
  obtain ⟨distinct, nodup, apart⟩ := keysDistinct_iff.1 h
  exact keysDistinct_iff.2 ⟨fun e e' k he he' => distinct e e' k (before he) (before he'),
    fun L => (nodup L).sublist (history L),
    fun e L origin tag he hm => apart e L origin tag (before he) ((history L).subset hm)⟩

theorem keepsKeys_of_same {s t : State} (contexts : t.reasm.contexts = s.reasm.contexts)
    (history : t.reasm.history = s.reasm.history) : KeepsKeys s t :=
  keepsKeys_of_fewer (fun e => .inl (by rw [heldKey, State.context, contexts]; rfl))
    fun L => by rw [State.history, history]; exact .refl _

/-- What leaves the reassembly unit as it is leaves the keys as they are. -/
theorem keepsKeys_of_reasm {s t : State} (h : t.reasm = s.reasm) : KeepsKeys s t :=
  keepsKeys_of_same (congrArg _ h) (congrArg _ h)

theorem pool_keepsKeys (p : Pool) (s : State) : KeepsKeys s { s with pool := p } := keepsKeys_of_reasm rfl

theorem time_keepsKeys (x : TimeBase) (s : State) : KeepsKeys s { s with time := x } := keepsKeys_of_reasm rfl

theorem pending_keepsKeys (q : List Instr) (s : State) : KeepsKeys s { s with pending := q } := keepsKeys_of_reasm rfl

theorem closeEntry_keepsKeys (e : EntryNo) (s : State) : KeepsKeys s (s.setContext e none) :=
  keepsKeys_of_fewer (fun i => by
    rw [heldKey_setContext]
    split
    · exact .inr rfl
    · exact .inl rfl) fun _ => .refl _

theorem emptyHistory_keepsKeys (L : Link) (s : State) : KeepsKeys s (s.setHistory L []) :=
  keepsKeys_of_fewer (fun _ => .inl rfl) fun M => by
    rw [State.setHistory_history]
    split
    · exact List.nil_sublist _
    · exact .refl _

theorem deviceReset_keepsKeys (low : Bool) (s : State) : KeepsKeys s (deviceReset low s) :=
  ⟨fun _ => deviceReset_keysDistinct low s⟩

theorem abandonContext_keepsKeys (e : EntryNo) (s : State) : KeepsKeys s (abandonContext e s) := by
  cases hc : s.context e with
  | none => rw [abandonContext_of_none hc]; exact .refl s
  | some c => rw [abandonContext_eq hc]; exact (closeEntry_keepsKeys e _).after (keepsKeys_of_reasm rfl)

theorem abandonContexts_keepKeys (es : List EntryNo) (s : State) : KeepsKeys s (abandonContexts es s) := by
  induction es generalizing s with
  | nil => exact .refl s
  | cons e es ih => exact (abandonContext_keepsKeys e s).trans (ih _)

/-! ### Keys that are new, and keys that move to the history -/

/-- A context whose key the entry held before is a change of the context alone. -/
theorem sameKey_keepsKeys {e : EntryNo} {c c' : Context} {s : State} (hc : s.context e = some c)
    (hk : keyOf c' = keyOf c) : KeepsKeys s (s.setContext e (some c')) :=
  keepsKeys_of_fewer (fun i => .inl (by
    rw [heldKey_setContext]
    split
    · next hi => rw [hi, heldKey_of_context hc, ← hk]; rfl
    · rfl)) fun _ => .refl _

/-- A context is created for a key that no context and no history holds (R69, R72). -/
theorem newKey_keepsKeys {L : Link} {f : Fragment} {s : State} (new : NewKey L f s) {c : Context}
    (hk : keyOf c = (L, f.origin, f.tag)) (e : EntryNo) : KeepsKeys s (s.setContext e (some c)) := by
  obtain ⟨absent, unheld⟩ := new
  have held {i : EntryNo} {k : Link × Byte × Tag} (h : heldKey (s.setContext e (some c)) i = some k) :
      i = e ∧ k = (L, f.origin, f.tag) ∨ i ≠ e ∧ k ≠ (L, f.origin, f.tag) ∧ heldKey s i = some k := by
    rw [heldKey_setContext] at h
    split at h
    · next hi => exact .inl ⟨hi, (Option.some.inj h).symm.trans hk⟩
    · next hi => exact .inr ⟨hi, fun same => unheld i (same ▸ h), h⟩
  refine ⟨fun h => ?_⟩
  obtain ⟨distinct, nodup, apart⟩ := keysDistinct_iff.1 h
  refine keysDistinct_iff.2 ⟨fun i j k hi hj => ?_, nodup, fun i M origin tag hi => ?_⟩
  · obtain ⟨rfl, hk⟩ | ⟨-, hk, hi⟩ := held hi
    · obtain ⟨rfl, -⟩ | ⟨-, hk', -⟩ := held hj
      · rfl
      · exact absurd hk hk'
    · obtain ⟨-, hk'⟩ | ⟨-, -, hj⟩ := held hj
      · exact absurd hk' hk
      · exact distinct i j k hi hj
  · obtain ⟨-, hk⟩ | ⟨-, -, hi⟩ := held hi
    · cases hk; exact absent
    · exact apart i M origin tag hi

theorem mem_appendKey {k x : Key} {h : List Key} (hx : x ∈ appendKey k h) : x ∈ h ∨ x = k := by
  rw [appendKey_eq, List.mem_append, List.mem_singleton] at hx
  refine hx.imp_left fun hx => ?_
  split at hx
  · exact hx
  · exact List.mem_of_mem_tail hx

theorem nodup_appendKey {k : Key} {h : List Key} (nodup : h.Nodup) (hk : k ∉ h) : (appendKey k h).Nodup := by
  rw [appendKey_eq]
  split
  · exact List.concat_eq_append ▸ nodup.concat hk
  · exact List.concat_eq_append ▸ nodup.tail.concat fun hm => hk (List.mem_of_mem_tail hm)

/-- A context is completed: its entry becomes FREE and its key joins the history of its link (R79, R91). -/
theorem moveKey_keepsKeys {e : EntryNo} {c : Context} {s : State} (hc : s.context e = some c) :
    KeepsKeys s ((s.setContext e none).setHistory c.link (appendKey ⟨c.origin, c.tag⟩ (s.history c.link))) := by
  refine ⟨fun h => ?_⟩
  have absent := h.apart e c hc
  obtain ⟨distinct, nodup, apart⟩ := keysDistinct_iff.1 h
  obtain ⟨fewer, -, -⟩ := keysDistinct_iff.1 ((closeEntry_keepsKeys e s).distinct h)
  refine keysDistinct_iff.2 ⟨fewer, fun M => ?_, fun i M origin tag hi => ?_⟩
  · rw [State.setHistory_history]
    split
    · exact nodup_appendKey (nodup c.link) absent
    · exact nodup M
  · replace hi : heldKey (s.setContext e none) i = some (M, origin, tag) := hi
    rw [heldKey_setContext] at hi
    split at hi
    · cases hi
    · next other =>
      rw [State.setHistory_history]
      split
      · next hM =>
        subst hM
        intro hm
        obtain hm | hm := mem_appendKey hm
        · exact apart i c.link origin tag hi hm
        · cases hm
          exact other (distinct i e (keyOf c) hi (heldKey_of_context hc))
      · exact apart i M origin tag hi

end Sys2Proof.Steps
end

section
/-! PROOFS. The operations that leave the reassembly unit as it is: counters, requests and notices, the outbound
scheduler, the compose unit, the service context, and the accesses of the host. -/

namespace Sys2Proof.Steps

open Sys2Proof.Machine Sys2Proof.Safety Sys2Proof.Statement

/-! ### Shared operations -/

@[simp] theorem recordNotice_reasm (n : Notice) (s : State) : (recordNotice n s).reasm = s.reasm := by
  rw [recordNotice_eq]

@[simp] theorem count_reasm (L : Link) (c : CounterName) (s : State) : (count L c s).reasm = s.reasm := rfl

@[simp] theorem joinRequest_reasm (L : Link) (r : Request) (s : State) : (joinRequest L r s).reasm = s.reasm := by
  rw [joinRequest_eq, State.setPort_reasm]

@[simp] theorem clearHandedOver_reasm (L : Link) (s : State) : (clearHandedOver L s).reasm = s.reasm := rfl

@[simp] theorem answerFragment_reasm (L : Link) (f : Fragment) (k : RequestKind) (s : State) :
    (answerFragment L f k s).reasm = s.reasm := by rw [answerFragment_eq_replied, State.setPort_reasm]

@[simp] theorem dropNoContext_reasm (L : Link) (f : Fragment) (s : State) : (dropNoContext L f s).reasm = s.reasm := by
  rw [dropNoContext_eq, State.setPort_reasm]

@[simp] theorem dropNoBlock_reasm (L : Link) (f : Fragment) (s : State) : (dropNoBlock L f s).reasm = s.reasm := by
  rw [dropNoBlock_eq, State.setPort_reasm]

@[simp] theorem freeMessage_reasm (d : DescNo) (s : State) : (freeMessage d s).reasm = s.reasm := rfl

@[simp] theorem freeMessages_reasm (ds : List DescNo) (s : State) : (freeMessages ds s).reasm = s.reasm := by
  induction ds generalizing s with
  | nil => rfl
  | cons d ds ih => exact (ih _).trans (freeMessage_reasm d s)

/-! ### The outbound scheduler -/

@[simp] theorem endOutbound_reasm (L : Link) (d : DescNo) (s : State) : (endOutbound L d s).reasm = s.reasm := rfl

@[simp] theorem finishDone_reasm (L : Link) (d : DescNo) (s : State) : (finishDone L d s).reasm = s.reasm := by
  rw [finishDone_eq, endOutbound_reasm]

@[simp] theorem finishFailed_reasm (L : Link) (d : DescNo) (r : FailReason) (s : State) :
    (finishFailed L d r s).reasm = s.reasm := by rw [finishFailed, endOutbound_reasm, recordNotice_reasm]

@[simp] theorem enterBackoff_reasm (L : Link) (d : DescNo) (s : State) : (enterBackoff L d s).reasm = s.reasm := rfl

@[simp] theorem enterResend_reasm (L : Link) (d : DescNo) (s : State) : (enterResend L d s).reasm = s.reasm := rfl

@[simp] theorem takeHandedAck_reasm (L : Link) (s : State) : (takeHandedAck L s).reasm = s.reasm := by
  unfold takeHandedAck takeAck
  split
  · split <;> simp
  · rfl

@[simp] theorem takeHandedRefuse_reasm (L : Link) (s : State) : (takeHandedRefuse L s).reasm = s.reasm := by
  unfold takeHandedRefuse takeRefuse
  split
  · split
    · split
      · split <;> simp
      · simp
    · simp
  · rfl

@[simp] theorem ackWaitExpiry_reasm (d : DescNo) (s : State) : (ackWaitExpiry d s).reasm = s.reasm := by
  obtain h | ⟨-, -, h⟩ := ackWaitExpiry_eq d s <;> rw [h]
  simp only [expireWait]
  split <;> simp

@[simp] theorem backoffExpiry_reasm (d : DescNo) (s : State) : (backoffExpiry d s).reasm = s.reasm := by
  obtain h | ⟨-, -, h⟩ := backoffExpiry_eq d s <;> rw [h]
  exact enterResend_reasm ..

@[simp] theorem reportFrameEnd_reasm (L : Link) (s : State) : (reportFrameEnd L s).reasm = s.reasm := by
  have sent (d : DescNo) (n : Nat) : (fragmentSent L d n s).reasm = s.reasm := by
    unfold fragmentSent
    split
    · rfl
    · split
      · exact finishDone_reasm ..
      · rfl
  unfold reportFrameEnd
  split
  · rw [clearLine, State.setSch_reasm]
    split
    · exact sent ..
    · rfl
  · rfl

@[simp] theorem stopSending_reasm (L : Link) (s : State) : (stopSending L s).reasm = s.reasm := by
  unfold stopSending
  split
  · split <;> simp
  · rfl

@[simp] theorem takeFrameStart_reasm (L : Link) (s : State) : (takeFrameStart L s).reasm = s.reasm := by
  have offer (o : Offer) : (takeOffer L o s).reasm = s.reasm := by cases o <;> rfl
  unfold takeFrameStart startFrame
  split
  · split
    · rfl
    · split
      · exact offer _
      · rfl
  · rfl

/-! ### The compose unit and the service context -/

theorem outWithdrawBody_reasm (s : State) : (outWithdrawBody s).1.reasm = s.reasm := by
  unfold outWithdrawBody
  split
  · rfl
  · split
    · rfl
    · split <;> rfl

theorem composeOpenBody_reasm (s : State) : (composeOpenBody s).1.reasm = s.reasm := by
  unfold composeOpenBody
  split
  · rfl
  · split
    · rfl
    · split
      · rfl
      · split
        · rfl
        · next hd =>
          obtain ⟨-, rfl⟩ := claimDescriptor_eq_some.1 hd
          rfl

theorem composeSubmitBody_reasm (s : State) : (composeSubmitBody s).1.reasm = s.reasm := by
  unfold composeSubmitBody
  split <;> rfl

theorem composeCancelBody_reasm (s : State) : (composeCancelBody s).1.reasm = s.reasm := by
  unfold composeCancelBody
  split <;> rfl

theorem composeBlock_reasm {d : DescNo} {s t : State} {b : BlockNo} (h : composeBlock d s = some (b, t)) :
    t.reasm = s.reasm := by
  unfold composeBlock at h
  split at h
  · obtain ⟨⟨b', u⟩, hu, hb⟩ := Option.map_eq_some_iff.1 h
    obtain ⟨rest, -, rfl⟩ := grantBlock_eq_some.1 hu
    cases hb
    rfl
  · obtain ⟨b', -, hb⟩ := Option.map_eq_some_iff.1 h
    cases hb
    rfl

theorem writeComposePort_reasm (v : Byte) (s : State) : (writeComposePort v s).reasm = s.reasm := by
  unfold writeComposePort writeComposeByte
  split
  · rfl
  · split
    · rfl
    · split
      · rfl
      · split
        · next t hb => exact (composeBlock_reasm hb : t.reasm = s.reasm)
        · rfl

theorem takeItem_reasm (w : Source × Nat) (s : State) : (takeItem w s).reasm = s.reasm := by
  unfold takeItem
  split <;> split <;> rfl

theorem takeBody_reasm (s : State) : (takeBody s).1.reasm = s.reasm := by
  unfold takeBody
  split
  · rfl
  · split
    · rfl
    · split
      · exact takeItem_reasm ..
      · rfl

theorem takeAnyBody_reasm (s : State) : (takeAnyBody s).1.reasm = s.reasm := by
  unfold takeAnyBody
  split
  · rfl
  · split
    · rfl
    · exact takeItem_reasm ..

theorem releaseBody_reasm (s : State) : (releaseBody s).1.reasm = s.reasm := by
  unfold releaseBody
  split <;> rfl

theorem requeueBody_reasm (s : State) : (requeueBody s).1.reasm = s.reasm := by
  unfold requeueBody
  split
  · rfl
  · rfl
  · split <;> rfl

/-! ### Accesses of the host -/

theorem readEffect_reasm (a : BitVec 7) (s : State) : (readEffect a s).reasm = s.reasm := by
  have port : (readDataPort s).reasm = s.reasm := by
    unfold readDataPort
    split
    · rfl
    · split <;> rfl
  generalize he : readEffect a = effect
  unfold readEffect at he
  split at he <;> subst he
  · exact port
  all_goals rfl

theorem takeRead_reasm (a : BitVec 7) (s : State) : (takeRead a s).reasm = s.reasm := by
  unfold takeRead hostRead driveBus
  split
  · rfl
  · exact readEffect_reasm a s

theorem writeCursorHigh_reasm (v : Byte) (s : State) : (writeCursorHigh v s).reasm = s.reasm := by
  unfold writeCursorHigh
  split
  · rfl
  · split <;> rfl

theorem writeLinkSelect_reasm (v : Byte) (s : State) : (writeLinkSelect v s).reasm = s.reasm := by
  unfold writeLinkSelect
  split <;> rfl

theorem writeCeilingHigh_reasm (v : Byte) (s : State) : (writeCeilingHigh v s).reasm = s.reasm := by
  unfold writeCeilingHigh writeCeiling
  split <;> rfl

end Sys2Proof.Steps
end

section
/-! PROOFS. The reassembly unit, the links and every step keep the keys distinct (R63, R89). -/

namespace Sys2Proof.Steps

open Sys2Proof.Machine Sys2Proof.Safety Sys2Proof.Statement

/-! ### The reassembly unit -/

theorem completeContext_keepsKeys {e : EntryNo} {c : Context} {s : State} (hc : s.context e = some c) :
    KeepsKeys s (completeContext e c s) := by
  let ready := (s.setDesc c.descriptor (completedDescriptor c s)).setReady c.link (s.ready c.link ++ [c.descriptor])
  have moved := (keepsKeys_of_reasm rfl : KeepsKeys s ready).trans (moveKey_keepsKeys hc)
  simp only [completeContext]
  split
  · exact moved
  · exact moved.trans (keepsKeys_of_reasm (joinRequest_reasm ..))

/-- A fragment stored leaves its context with its key, or completes it. -/
theorem storeFragment_keepsKeys {e : EntryNo} {c : Context} {s : State} (hc : s.context e = some c) (f : Fragment)
    (b : Option BlockNo) : KeepsKeys s (storeFragment e c f b s) := by
  have stored : KeepsKeys s (State.setContext { s with pool := storedPool b f.payload s } e
      (some (contextWith c f b))) :=
    (pool_keepsKeys _ s).trans (sameKey_keepsKeys (c := c) hc rfl)
  rw [storeFragment_eq]
  dsimp only
  split
  · exact stored.trans (completeContext_keepsKeys (State.setContext_context_self ..))
  · exact stored

/-- The first fragment of a message is stored in the context created for it. -/
theorem createStored_keepsKeys {L : Link} {f : Fragment} {s : State} (new : NewKey L f s) (e : EntryNo) (d : DescNo)
    (b : Option BlockNo) : KeepsKeys s (storeFragment e (newContext L f d s) f b s) := by
  rw [← storeFragment_setContext (x := some (newContext L f d s))]
  exact (newKey_keepsKeys new rfl e).trans (storeFragment_keepsKeys (State.setContext_context_self ..) f b)

theorem createContext_keepsKeys {L : Link} {f : Fragment} {s : State} (new : NewKey L f s) :
    KeepsKeys s (createContext L f s) := by
  have dropped : KeepsKeys s (dropNoContext L f s) := keepsKeys_of_reasm (dropNoContext_reasm L f s)
  unfold createContext
  split
  · exact dropped
  · split
    · split
      · exact dropped
      · next hd =>
        obtain ⟨-, rfl⟩ := claimDescriptor_eq_some.1 hd
        split
        · exact (createStored_keepsKeys (by exact new) ..).after (keepsKeys_of_reasm rfl)
        · split
          · exact keepsKeys_of_reasm (dropNoBlock_reasm ..)
          · next hb =>
            obtain ⟨rest, -, rfl⟩ := grantBlock_eq_some.1 (reassemblyClaim_eq_some.1 hb).2.2
            exact (createStored_keepsKeys (by exact new) ..).after (keepsKeys_of_reasm rfl)
    · exact dropped

theorem continueContext_keepsKeys {L : Link} {e : EntryNo} {c : Context} {s : State} (hc : s.context e = some c)
    (f : Fragment) : KeepsKeys s (continueContext L e c f s) := by
  unfold continueContext
  split
  · exact keepsKeys_of_reasm (count_reasm L _ s)
  · split
    · exact (abandonContext_keepsKeys e s).trans (keepsKeys_of_reasm (recordNotice_reasm ..))
    · split
      · exact storeFragment_keepsKeys hc f none
      · split
        · exact keepsKeys_of_reasm (dropNoBlock_reasm L f s)
        · next b _ hb =>
          obtain ⟨rest, -, rfl⟩ := grantBlock_eq_some.1 (reassemblyClaim_eq_some.1 hb).2.2
          exact (storeFragment_keepsKeys (by exact hc) f (some b)).after (keepsKeys_of_reasm rfl)

theorem takeFragment_keepsKeys (L : Link) (f : Fragment) (s : State) : KeepsKeys s (takeFragment L f s) := by
  unfold takeFragment
  split
  · exact keepsKeys_of_reasm (answerFragment_reasm ..)
  · next absent =>
    split
    · next unheld => exact createContext_keepsKeys (newKey_iff.2 ⟨absent, unheld⟩)
    · split
      · next hc => exact continueContext_keepsKeys hc f
      · exact .refl s

theorem takeHandedFragment_keepsKeys (L : Link) (s : State) : KeepsKeys s (takeHandedFragment L s) := by
  unfold takeHandedFragment
  split
  · split
    · exact (takeFragment_keepsKeys L _ _).after (keepsKeys_of_reasm (clearHandedOver_reasm L s))
    · exact .refl s
  · exact .refl s

theorem lifetimeExpiry_keepsKeys (e : EntryNo) (s : State) : KeepsKeys s (lifetimeExpiry e s) := by
  obtain h | ⟨c, -, -, h⟩ := lifetimeExpiry_eq e s <;> rw [h]
  · exact .refl s
  · exact (abandonContext_keepsKeys e s).trans (keepsKeys_of_reasm (recordNotice_reasm ..))

/-! ### The links -/

theorem keepsKeys_of_receiverOnly {L : Link} {s t : State} (h : ReceiverOnly L s t) : KeepsKeys s t := by
  obtain ⟨q, rfl, -⟩ := h
  exact keepsKeys_of_reasm rfl

theorem takeHandedOver_keepsKeys (L : Link) (s : State) : KeepsKeys s (takeHandedOver L s) :=
  (takeHandedFragment_keepsKeys L s).trans (keepsKeys_of_reasm (by
    rw [takeHandedOver, takeHandedRefuse_reasm, takeHandedAck_reasm]))

theorem finishFrame_keepsKeys (L : Link) (s : State) : KeepsKeys s (finishFrame L s) := by
  unfold finishFrame
  split
  · exact (takeHandedOver_keepsKeys L s).trans (keepsKeys_of_receiverOnly (completeFrame_receiverOnly L _))
  · exact .refl s

theorem concludeFrame_keepsKeys (L : Link) (s : State) : KeepsKeys s (concludeFrame L s) :=
  (finishFrame_keepsKeys L s).trans (keepsKeys_of_receiverOnly (discardOversized_receiverOnly L _))

theorem receiveCharacter_keepsKeys (L : Link) (b : Byte) (s : State) : KeepsKeys s (receiveCharacter L b s) :=
  (concludeFrame_keepsKeys L s).trans (keepsKeys_of_receiverOnly (hearCharacter_receiverOnly L b _))

theorem receiveError_keepsKeys (L : Link) (s : State) : KeepsKeys s (receiveError L s) :=
  (concludeFrame_keepsKeys L s).trans (keepsKeys_of_receiverOnly (hearError_receiverOnly L _))

theorem takeLineEvent_keepsKeys (L : Link) (s : State) (e : Option LineEvent) :
    KeepsKeys s (takeLineEvent L s e) := by
  unfold takeLineEvent
  split
  · exact receiveCharacter_keepsKeys L _ s
  · exact receiveError_keepsKeys L s
  · exact .refl s

theorem receiverPeriod_keepsKeys (L : Link) (s : State) : KeepsKeys s (receiverPeriod L s) := by
  unfold receiverPeriod
  split
  · exact keepsKeys_of_reasm rfl
  · simp only [sampleReceiver]
    refine (concludeFrame_keepsKeys L _).after ?_
    split
    · exact (keepsKeys_of_receiverOnly (countIdle_receiverOnly L _)).after (keepsKeys_of_reasm rfl)
    · exact (takeLineEvent_keepsKeys L _ _).after (keepsKeys_of_reasm rfl)

theorem handOffPeriod_keepsKeys (L : Link) (s : State) : KeepsKeys s (handOffPeriod L s) := by
  unfold handOffPeriod
  split
  · exact .refl s
  · split
    · exact keepsKeys_of_reasm rfl
    · exact takeHandedOver_keepsKeys L s

/-- A link that enters OFF abandons its contexts (R20, R86). -/
theorem enterOff_keepsKeys (L : Link) (s : State) : KeepsKeys s (enterOff L s) := by
  refine (abandonContexts_keepKeys (s.entriesOfLink L) s).trans (keepsKeys_of_reasm ?_)
  simp only [enterOff, recordNotice_reasm, suspendDeadlines, stopSending_reasm, State.setPort_reasm]

theorem endFrame_keepsKeys (L : Link) (s : State) : KeepsKeys s (endFrame L s) := by
  have reported : KeepsKeys s (reportFrameEnd L (enterGap L s)) := keepsKeys_of_reasm (reportFrameEnd_reasm L _)
  simp only [endFrame]
  split
  · exact reported.trans (enterOff_keepsKeys L _)
  · exact reported

theorem transmitterPeriod_keepsKeys (L : Link) (s : State) : KeepsKeys s (transmitterPeriod L s) := by
  unfold transmitterPeriod
  split
  · unfold sendPeriod
    split
    · exact keepsKeys_of_reasm rfl
    · exact endFrame_keepsKeys L s
  · exact keepsKeys_of_reasm rfl
  · exact keepsKeys_of_reasm (takeFrameStart_reasm L s)

theorem linkPeriods_keepKeys (s : State) : KeepsKeys s (linkPeriods s) := by
  have one (L : Link) (t : State) : KeepsKeys t (linkPeriod L t) :=
    (transmitterPeriod_keepsKeys L t).trans ((handOffPeriod_keepsKeys L _).trans (receiverPeriod_keepsKeys L _))
  exact (one 0 s).trans ((one 1 _).trans ((one 2 _).trans (one 3 _)))

/-! ### The time base and the rebuild -/

theorem takeTick_keepsKeys (s : State) : KeepsKeys s (takeTick s) := by
  have expired : KeepsKeys s (takeExpiries s) :=
    takeExpiries_induction (P := KeepsKeys s) (.refl s) (fun e _ h => h.trans (lifetimeExpiry_keepsKeys e _))
      (fun d _ h => h.trans (keepsKeys_of_reasm (ackWaitExpiry_reasm d _)))
      fun d _ h => h.trans (keepsKeys_of_reasm (backoffExpiry_reasm d _))
  unfold takeTick
  split
  · exact .refl s
  · exact expired.trans (time_keepsKeys _ _)

theorem countPeriod_keepsKeys (s : State) : KeepsKeys s (countPeriod s) := by
  unfold countPeriod
  split
  · exact keepsKeys_of_reasm rfl
  · exact takeTick_keepsKeys s

theorem agePulsePeriod_reasm (s : State) : (agePulsePeriod s).reasm = s.reasm := by
  unfold agePulsePeriod
  split <;> rfl

theorem placeBlock_reasm (s : State) : (placeBlock s).reasm = s.reasm := by
  unfold placeBlock
  split
  · split <;> rfl
  · rfl

/-! ### Writes of the window -/

theorem linkStartBody_reasm (s : State) : (linkStartBody s).1.reasm = s.reasm := by
  unfold linkStartBody
  split
  · rfl
  · split
    · split <;> rfl
    all_goals rfl

theorem linkStopBody_keepsKeys (s : State) : KeepsKeys s (linkStopBody s).1 := by
  unfold linkStopBody
  split
  · exact .refl s
  · split
    · simp only [stopLink]
      split
      · exact keepsKeys_of_reasm rfl
      · exact (enterOff_keepsKeys _ _).after (keepsKeys_of_reasm rfl)
    all_goals exact .refl s

/-- LINK RESET abandons the contexts of the link and empties its history (R21, R87). -/
theorem linkResetBody_keepsKeys (s : State) : KeepsKeys s (linkResetBody s).1 := by
  unfold linkResetBody
  split
  · exact .refl s
  · next L _ =>
    refine ((abandonContexts_keepKeys (s.entriesOfLink L) s).trans (emptyHistory_keepsKeys L _)).trans
      (keepsKeys_of_reasm ?_)
    simp only [resetLink, recordNotice_reasm, State.setPort_reasm, State.setSch_reasm, freeMessages_reasm,
      State.setReady_reasm]

theorem countersClearBody_reasm (s : State) : (countersClearBody s).1.reasm = s.reasm := by
  unfold countersClearBody
  split <;> rfl

theorem hostWrite_keepsKeys {effect : State → State} {s : State} (h : KeepsKeys s (effect s)) :
    KeepsKeys s (hostWrite effect s) := by
  unfold hostWrite
  split
  · exact .refl s
  · exact h

theorem issueCommand_keepsKeys {code : Byte} {body : State → State × CommandOutcome} {s : State}
    (h : KeepsKeys s (body s).1) : KeepsKeys s (issueCommand code body s) := by
  refine hostWrite_keepsKeys ?_
  split
  · exact keepsKeys_of_reasm rfl
  · exact h.trans (keepsKeys_of_reasm rfl)

theorem commandDeviceReset_keepsKeys (s : State) : KeepsKeys s (commandDeviceReset s) := by
  refine hostWrite_keepsKeys ?_
  split
  · exact keepsKeys_of_reasm rfl
  · exact deviceReset_keepsKeys false s

theorem writeCommandRegister_keepsKeys (code : Byte) (s : State) : KeepsKeys s (writeCommandRegister code s) := by
  have same {body : State → State × CommandOutcome} (h : (body s).1.reasm = s.reasm) :
      KeepsKeys s (issueCommand code body s) := issueCommand_keepsKeys (keepsKeys_of_reasm h)
  unfold writeCommandRegister
  split
  · exact same (linkStartBody_reasm s)
  · exact issueCommand_keepsKeys (linkStopBody_keepsKeys s)
  · exact issueCommand_keepsKeys (linkResetBody_keepsKeys s)
  · exact same (takeBody_reasm s)
  · exact same (takeAnyBody_reasm s)
  · exact same (releaseBody_reasm s)
  · exact same (requeueBody_reasm s)
  · exact same (composeOpenBody_reasm s)
  · exact same (composeSubmitBody_reasm s)
  · exact same (composeCancelBody_reasm s)
  · exact same (outWithdrawBody_reasm s)
  · exact same rfl
  · exact same (countersClearBody_reasm s)
  · exact same rfl
  · exact commandDeviceReset_keepsKeys s
  · exact same rfl

theorem writeSetting_keepsKeys (x : Setting) (v : Nat) (s : State) : KeepsKeys s (writeSetting x v s) := by
  unfold writeSetting
  split
  · have assigned := assign_settingOnly x v s
    exact keepsKeys_of_same assigned.contexts assigned.history
  · exact keepsKeys_of_reasm rfl

theorem windowWrite_keepsKeys (a : BitVec 7) (v : Byte) (s : State) : KeepsKeys s (windowWrite a v s) := by
  unfold windowWrite
  split
  · exact writeCommandRegister_keepsKeys v s
  · exact keepsKeys_of_reasm (writeLinkSelect_reasm v s)
  · exact keepsKeys_of_reasm rfl
  · exact keepsKeys_of_reasm rfl
  · exact keepsKeys_of_reasm rfl
  · exact keepsKeys_of_reasm rfl
  · exact keepsKeys_of_reasm (writeCursorHigh_reasm v s)
  · exact keepsKeys_of_reasm (writeComposePort_reasm v s)
  · exact keepsKeys_of_reasm rfl
  · exact keepsKeys_of_reasm (writeCeilingHigh_reasm v s)
  · split
    · exact writeSetting_keepsKeys _ _ s
    · exact .refl s

theorem takeWrite_keepsKeys (a : BitVec 7) (v : Byte) (s : State) : KeepsKeys s (takeWrite a v s) :=
  hostWrite_keepsKeys (windowWrite_keepsKeys a v s)

theorem takeRead_keepsKeys (a : BitVec 7) (s : State) : KeepsKeys s (takeRead a s) :=
  keepsKeys_of_reasm (takeRead_reasm a s)

/-! ### A reference period, a command and a step -/

theorem busPeriod_keepsKeys (s : State) : KeepsKeys s (busPeriod s) := by
  have driven (t : State) : (driveData s.inputs s.inputs.next t).reasm = t.reasm := by
    unfold driveData
    split
    · exact takeRead_reasm _ t
    · split <;> rfl
  have written : KeepsKeys s (if writeEnds s.inputs s.inputs.next then
      takeWrite s.inputs.next.address s.inputs.next.data s else s) := by
    split
    · exact takeWrite_keepsKeys _ _ s
    · exact .refl s
  exact written.trans (keepsKeys_of_reasm (driven _))

theorem clockPeriod_keepsKeys (s : State) : KeepsKeys s (clockPeriod s) := by
  have quiet (t : State) : (placeBlock (agePulsePeriod t)).reasm = t.reasm :=
    (placeBlock_reasm _).trans (agePulsePeriod_reasm t)
  simp only [clockPeriod]
  split
  · exact busPeriod_keepsKeys s
  · exact (((busPeriod_keepsKeys s).trans (countPeriod_keepsKeys _)).trans (keepsKeys_of_reasm (quiet _))).trans
      (linkPeriods_keepKeys _)

/-- A command of the command register is a write of its code. -/
theorem exec_of_commandCode {c : Instr} {code : Byte} (h : commandCode c = some code) (s : State) :
    exec c s = .next (writeCommandRegister code s) := by
  cases c <;> cases h <;> rfl

/-- Every command keeps the keys distinct. -/
theorem exec_keepsKeys (c : Instr) (s : State) : ∃ t, exec c s = .next t ∧ KeepsKeys s t :=
  have command {c : Instr} (code : Byte) (h : commandCode c = some code) : ∃ t, exec c s = .next t ∧ KeepsKeys s t :=
    ⟨_, exec_of_commandCode h s, writeCommandRegister_keepsKeys code s⟩
  match c with
  | .resetLineLow => ⟨_, rfl, (deviceReset_keepsKeys true s).trans (keepsKeys_of_reasm rfl)⟩
  | .resetLineHigh => ⟨_, rfl, keepsKeys_of_reasm rfl⟩
  | .freeListRebuilt => ⟨_, rfl, keepsKeys_of_reasm (by split <;> rfl)⟩
  | .tick => ⟨_, rfl, takeTick_keepsKeys s⟩
  | .agePulse => ⟨_, rfl, keepsKeys_of_reasm (agePulsePeriod_reasm s)⟩
  | .contextLifetimeExpiry e => ⟨_, rfl, lifetimeExpiry_keepsKeys e s⟩
  | .acknowledgementWaitExpiry d => ⟨_, rfl, keepsKeys_of_reasm (ackWaitExpiry_reasm d s)⟩
  | .refuseBackoffExpiry d => ⟨_, rfl, keepsKeys_of_reasm (backoffExpiry_reasm d s)⟩
  | .settlingGapEnd L => ⟨_, rfl, keepsKeys_of_receiverOnly (endSettling_receiverOnly L s)⟩
  | .rxFrameComplete L => ⟨_, rfl, finishFrame_keepsKeys L s⟩
  | .truncation L => ⟨_, rfl, keepsKeys_of_receiverOnly (truncateFrame_receiverOnly L s)⟩
  | .characterError L => ⟨_, rfl, receiveError_keepsKeys L s⟩
  | .oversizedPayloadLength L => ⟨_, rfl, keepsKeys_of_receiverOnly (discardOversized_receiverOnly L s)⟩
  | .fragment L => ⟨_, rfl, takeHandedFragment_keepsKeys L s⟩
  | .ackReceived L => ⟨_, rfl, keepsKeys_of_reasm (takeHandedAck_reasm L s)⟩
  | .refuseReceived L => ⟨_, rfl, keepsKeys_of_reasm (takeHandedRefuse_reasm L s)⟩
  | .frameStart L => ⟨_, rfl, keepsKeys_of_reasm (takeFrameStart_reasm L s)⟩
  | .frameEnd L => ⟨_, rfl, by
      split
      · exact endFrame_keepsKeys L s
      · exact .refl s⟩
  | .txGapEnd L => ⟨_, rfl, keepsKeys_of_reasm (by split <;> rfl)⟩
  | .linkStart | .linkStop | .linkReset | .take | .takeAny | .release | .requeue | .composeOpen | .composeSubmit
  | .composeCancel | .outWithdraw | .noticeClearOverflow | .countersClear | .clearFlags | .deviceReset
  | .unknownCommand _ => command _ rfl
  | .readDataPortRead => ⟨_, rfl, takeRead_keepsKeys 0x24 s⟩
  | .readCursorLowRead => ⟨_, rfl, takeRead_keepsKeys 0x25 s⟩
  | .writeCountLowRead => ⟨_, rfl, takeRead_keepsKeys 0x28 s⟩
  | .tickCounterLowRead => ⟨_, rfl, takeRead_keepsKeys 0x2A s⟩
  | .freeCountLowRead => ⟨_, rfl, takeRead_keepsKeys 0x2E s⟩
  | .inboundHoldLowRead => ⟨_, rfl, takeRead_keepsKeys 0x49 s⟩
  | .linkSelectWrite v => ⟨_, rfl, takeWrite_keepsKeys 0x04 v s⟩
  | .readCursorLowWrite v => ⟨_, rfl, takeWrite_keepsKeys 0x25 v s⟩
  | .readCursorHighWrite v => ⟨_, rfl, takeWrite_keepsKeys 0x26 v s⟩
  | .composeDataPortWrite v => ⟨_, rfl, takeWrite_keepsKeys 0x27 v s⟩
  | .ceilingLowWrite v => ⟨_, rfl, takeWrite_keepsKeys 0x47 v s⟩
  | .ceilingHighWrite v => ⟨_, rfl, takeWrite_keepsKeys 0x48 v s⟩
  | .configurationWrite a v => ⟨_, rfl, takeWrite_keepsKeys a v s⟩
  | .characterReceived L b => ⟨_, rfl, receiveCharacter_keepsKeys L b s⟩

/-- Settles O55: a context is created for a new key alone, its completion moves its key to the history, and no other
change adds a key. -/
theorem everyStepKeepsTheKeysDistinct : Obligations.EveryStepKeepsTheKeysDistinct := by
  intro s t keys h
  unfold step at h
  split at h
  · cases h; exact (clockPeriod_keepsKeys s).distinct keys
  · next c rest _ =>
    obtain ⟨u, hu, k⟩ := exec_keepsKeys c { s with pending := rest }
    obtain rfl : u = t := by rw [hu] at h; exact Host.Outcome.next.inj h
    exact ((pending_keepsKeys rest s).trans k).distinct keys

end Sys2Proof.Steps
end

section
/-! PROOFS. The reassembly unit: fragments that are only counted or answered, and messages of one fragment (chapters 5
and 6). -/

namespace Sys2Proof.Steps

open Sys2Proof.Machine Sys2Proof.Safety Sys2Proof.Statement

/-! ### Fragments already received (R68, R74) -/

theorem duplicateMessage_eq (L : Link) (f : Fragment) (s : State) :
    duplicateMessage L f s = s.setPort L (replied .ack f (counted .duplicateMessages (s.port L))) := by
  rw [duplicateMessage, answerFragment_eq_replied, count_eq_counted, State.setPort_setPort, State.setPort_port_self]

/-- Settles O17: the history is searched first, and a key found there is a duplicate message. -/
theorem fragmentOfACompletedMessage : Obligations.FragmentOfACompletedMessage := by
  intro s L f ht known
  have duplicate : takeFragment L f (s.setPort L (taken (s.port L))) =
      duplicateMessage L f (s.setPort L (taken (s.port L))) := if_pos known
  rw [exec_fragment ht, duplicate, duplicateMessage_eq, State.setPort_port_self, State.setPort_setPort]
  rfl

/-- Settles O18: a number in the received set is the first case of a fragment for a context. -/
theorem duplicateFragmentIsOnlyCounted : Obligations.DuplicateFragmentIsOnlyCounted := by
  intro s L f e c ht hk received
  have duplicate : continueContext L e c f (s.setPort L (taken (s.port L))) =
      count L .duplicateFragments (s.setPort L (taken (s.port L))) := if_pos received
  rw [exec_fragment_knownKey ht hk, duplicate, count_eq_counted, State.setPort_port_self, State.setPort_setPort]
  rfl

/-! ### Messages of one fragment (R69, R72, R78 to R81, R91) -/

/-- With an entry, quota room and a descriptor, an empty payload needs no block. -/
theorem createContext_of_empty {L : Link} {f : Fragment} {e : EntryNo} {d : DescNo} {s : State}
    (he : LowestEntry e s) (hq : contextsOf L s < s.reasm.quota.look L) (hd : LowestFree d s) (hp : f.payload = []) :
    createContext L f s =
      storeFragment e (newContext L f d s) f none (s.setDesc d (assemblingRecord L f)) := by
  have descriptor : claimDescriptor (assemblingRecord L f) s = some (d, s.setDesc d (assemblingRecord L f)) :=
    claimDescriptor_eq_some.2 ⟨lowestFree_eq_some.2 hd, rfl⟩
  simp only [createContext, freeEntry_eq_some_iff.2 he, contextCount_eq_contextsOf, if_pos hq, descriptor, if_pos hp]
  rfl

/-- A final fragment 0 makes its new context whole. -/
theorem wholeWith_newContext {L : Link} {f : Fragment} {d : DescNo} {s : State} (final : f.final = true)
    (first : f.number = 0) : WholeWith (newContext L f d s) f 0 := by
  refine ⟨by rw [if_pos final, first], fun n => ?_⟩
  simp [newContext, first]

/-- A single block in slot 0 is the whole chain, and no block is none. -/
theorem slotBlocks_single (c : Context) (b : Option BlockNo)
    (h : c.slots = (Table.fill 16 none).put 0 b) : slotBlocks c = b.toList := by
  have first : c.slots.look 0 = b := by rw [h, Table.look_put_self]
  have others (n : Fin 15) : c.slots.look n.succ = none := by
    rw [h, Table.look_put_ne _ _ (Fin.succ_ne_zero n), Table.look_fill]
  rw [slotBlocks, List.finRange_succ, List.filterMap_cons, first, List.filterMap_map]
  cases b <;> simpa using others

/-- The record of a message of one fragment, READY as soon as it has been taken. -/
def readyAtOnce (L : Link) (f : Fragment) (chain : List BlockNo) (now : Tick) : Descriptor :=
  { Descriptor.cleared with
    state := .ready, direction := some .inbound, link := L, peer := f.origin, broadcast := f.broadcast,
    tag := some f.tag, length := f.payload.length, fragmentCount := some 1, chain := chain, stamp := some now }

/-- In `t` the message of fragment `f` of link `L` is READY in descriptor `d` with the chain given; no context has been
left, and what else has changed since `s` is the pool. -/
def CompletedAtOnce (L : Link) (f : Fragment) (d : DescNo) (chain : List BlockNo) (s t : State) : Prop :=
  OnlyDescriptor d (readyAtOnce L f chain s.now) s t ∧
  t.ready L = s.ready L ++ [d] ∧ (∀ L', L' ≠ L → t.ready L' = s.ready L') ∧
  t.history L = (if (s.history L).length < 16 then s.history L else (s.history L).tail) ++ [⟨f.origin, f.tag⟩] ∧
  (∀ L', L' ≠ L → t.history L' = s.history L') ∧
  t = { s with
    ports := s.ports.put L
      (if f.broadcast = true then taken (s.port L) else requested ⟨.ack, f.origin, f.tag⟩ (taken (s.port L))),
    pool := t.pool, table := t.table,
    reasm := { s.reasm with history := t.reasm.history } }

theorem slots_contextWith_newContext {L : Link} {f : Fragment} {d : DescNo} {b : Option BlockNo} {s : State}
    (first : f.number = 0) : (contextWith (newContext L f d s) f b).slots = (Table.fill 16 none).put 0 b := by
  cases b with
  | some b => exact congrArg (fun n => (Table.fill 16 none).put n (some b)) first
  | none =>
    have same := Table.put_look (Table.fill 16 (none : Option BlockNo)) 0
    rw [Table.look_fill] at same
    exact same.symm

/-- The record claimed for the message, completed with one fragment: the length is what its block holds. -/
theorem completedDescriptor_readyAtOnce {L : Link} {f : Fragment} {c : Context} {b : Option BlockNo} {s : State}
    (last : c.final = some 0) (slots : c.slots = (Table.fill 16 none).put 0 b)
    (claimed : s.desc c.descriptor = assemblingRecord L f)
    (length : (b.map s.pool.usedLength.look).getD 0 = f.payload.length) :
    completedDescriptor c s = readyAtOnce L f b.toList s.now := by
  have used : wholeLength c s = f.payload.length := by
    rw [wholeLength_eq last, slots, Table.look_put_self, length]
    exact Nat.zero_add _
  rw [completedDescriptor, used, last, slotBlocks_single c b slots, claimed]
  rfl

/-- A final fragment 0 stored in its new context completes it, and the entry is FREE again. -/
theorem storeFragment_completedAtOnce {L : Link} {f : Fragment} {e : EntryNo} {d : DescNo} {b : Option BlockNo}
    {p : Pool} {s : State} (he : s.context e = none) (final : f.final = true) (first : f.number = 0) :
    let u : State := { (s.setPort L (taken (s.port L))).setDesc d (assemblingRecord L f) with pool := p }
    let t := storeFragment e (newContext L f d u) f b u
    (b.map (storedPool b f.payload u).usedLength.look).getD 0 = f.payload.length →
      t.pool = storedPool b f.payload u ∧ CompletedAtOnce L f d b.toList s t := by
  intro u t length
  let c := contextWith (newContext L f d u) f b
  let v := State.setContext { u with pool := storedPool b f.payload u } e (some c)
  have whole : contextWhole c = true := contextWhole_contextWith.2 ⟨0, wholeWith_newContext final first⟩
  have completes : t = completeContext e c v := (storeFragment_eq e _ f b u).trans (if_pos whole)
  have last : c.final = some 0 := (if_pos final).trans (congrArg some first)
  have claimed : v.desc d = assemblingRecord L f := State.setDesc_desc_self ..
  have record : completedDescriptor c v = readyAtOnce L f b.toList s.now :=
    completedDescriptor_readyAtOnce last (slots_contextWith_newContext first) claimed length
  have port : v.port L = taken (s.port L) := State.setPort_port_self ..
  obtain ⟨descriptor, ready, otherQueues, entry, otherEntries, history, otherHistories, frame⟩ : Completed e c v t :=
    completes ▸ completeContext_completed e c v
  have contexts : t.reasm.contexts = s.reasm.contexts := Table.ext_look fun i => by
    by_cases hi : i = e
    · subst hi; exact entry.trans he.symm
    · exact (otherEntries i hi).trans (Table.look_put_ne _ _ hi)
  have pool : t.pool = v.pool := by rw [frame]
  refine ⟨pool, ⟨record ▸ descriptor.1, fun i hi => ?_⟩, ready, otherQueues, ?_, otherHistories, ?_⟩
  · exact (descriptor.2 i hi).trans (Table.look_put_ne _ _ hi)
  · rw [← appendKey_eq]; exact history
  · have broadcast : (v.desc c.descriptor).broadcast = f.broadcast := congrArg (·.broadcast) claimed
    rw [broadcast, show c.link = L from rfl, port, contexts,
      show v.ports = s.ports.put L (taken (s.port L)) from rfl, Table.put_put, ← pool] at frame
    exact frame

/-- Settles O22: without a payload no block is claimed, and else the head of the free list is; the context is whole as
it is created. -/
theorem singleFragmentMessageIsCompletedAtOnce : Obligations.SingleFragmentMessageIsCompletedAtOnce := by
  intro s L f e d hm ht hk he hq hd final first completed
  let u := s.setPort L (taken (s.port L))
  refine ⟨fun hp => ?_, fun b hp granted hb => ?_⟩
  · refine ⟨_, exec_fragment_newKey ht hk, ?_⟩
    rw [createContext_of_empty (s := u) he hq hd hp]
    exact storeFragment_completedAtOnce (p := s.pool) (b := none) he.1 final first (by rw [hp]; rfl)
  · obtain ⟨rest, hb⟩ := freeList_of_head? hb
    have claim := reassemblyClaim_of_granted (s := u.setDesc d (assemblingRecord L f))
      ((blockGranted_setDesc (s := u) hd.1 rfl).2 granted) hb
    refine ⟨_, exec_fragment_newKey ht hk, ?_⟩
    rw [createContext_of_claimed (s := u) he hq hd hp claim]
    obtain ⟨pool, done⟩ := storeFragment_completedAtOnce (s := s) (b := some b)
      (p := { s.pool with freeList := rest, usedLength := s.pool.usedLength.put b 0 }) he.1 final first
      (Table.look_put_self ..)
    exact ⟨(congrArg (StoredIn b f.payload s.pool) pool).mpr (storedIn_storePayload hm hb), done⟩

end Sys2Proof.Steps
end

section
/-! PROOFS. What an operation of one link leaves to every other link: the replacements of a part, the shared operations
and the reassembly unit. -/

namespace Sys2Proof.Steps

open Sys2Proof.Machine Sys2Proof.Safety Sys2Proof.Statement

/-! ### Changes confined to one link -/

theorem sameLink_refl (M : Link) (s : State) : SameLink M s s :=
  ⟨rfl, rfl, rfl, rfl, ⟨rfl, rfl, rfl, rfl⟩, fun _ _ _ => .rfl, fun _ _ _ => rfl⟩

theorem sameLink_trans {M : Link} {s t u : State} (h : SameLink M s t) (k : SameLink M t u) : SameLink M s u := by
  obtain ⟨quota, lifetime, ceiling, weight⟩ := h.settings
  obtain ⟨quota', lifetime', ceiling', weight'⟩ := k.settings
  refine ⟨k.port.trans h.port, k.scheduler.trans h.scheduler, k.ready.trans h.ready, k.history.trans h.history,
    ⟨quota'.trans quota, lifetime'.trans lifetime, ceiling'.trans ceiling, weight'.trans weight⟩,
    fun e c hc => (k.contexts e c hc).trans (h.contexts e c hc), fun d used mine => ?_⟩
  have kept := h.messages d used mine
  exact (k.messages d (kept ▸ used) (kept ▸ mine)).trans kept

/-- Whatever belongs to a link other than `L` is the same in both states. -/
structure Confined (L : Link) (s t : State) : Prop where
  others : ∀ M, M ≠ L → SameLink M s t

theorem Confined.refl (L : Link) (s : State) : Confined L s s := ⟨fun M _ => sameLink_refl M s⟩

theorem Confined.trans {L : Link} {s t u : State} (h : Confined L s t) (k : Confined L t u) : Confined L s u :=
  ⟨fun M hM => sameLink_trans (h.others M hM) (k.others M hM)⟩

/-- The descriptor is no message of another link than `L`. -/
def OpenTo (L : Link) (x : Descriptor) : Prop := x.state = .free ∨ x.link = L

/-! ### Replacing a part -/

theorem setPort_confined (L : Link) (p : LinkPort) (s : State) : Confined L s (s.setPort L p) where
  others M hM := { sameLink_refl M s with port := (State.setPort_port ..).trans (if_neg hM) }

theorem setSch_confined (L : Link) (y : Scheduler) (s : State) : Confined L s (s.setSch L y) where
  others M hM := { sameLink_refl M s with scheduler := (State.setSch_sch ..).trans (if_neg hM) }

theorem setReady_confined (L : Link) (q : List DescNo) (s : State) : Confined L s (s.setReady L q) where
  others M hM := { sameLink_refl M s with ready := (State.setReady_ready ..).trans (if_neg hM) }

theorem setHistory_confined (L : Link) (q : List Key) (s : State) : Confined L s (s.setHistory L q) where
  others M hM := { sameLink_refl M s with history := (State.setHistory_history ..).trans (if_neg hM) }

/-- The descriptors of other links are not the one replaced. -/
theorem setDesc_confined {L : Link} {d : DescNo} {s : State} (h : OpenTo L (s.desc d)) (x : Descriptor) :
    Confined L s (s.setDesc d x) where
  others M hM :=
    { sameLink_refl M s with
      messages := fun i used mine => by
        have other : i ≠ d := by
          rintro rfl
          exact h.elim used fun hl => hM (mine.symm.trans hl)
        rw [State.setDesc_desc, if_neg other] }

/-- Only descriptors of link `L` are changed. -/
theorem mapAll_confined {L : Link} {f : Descriptor → Descriptor} (h : ∀ x, x.link ≠ L → f x = x) (s : State) :
    Confined L s { s with table := { s.table with descriptors := s.table.descriptors.mapAll f } } where
  others M hM :=
    { sameLink_refl M s with
      messages := fun d _ mine => (Table.look_mapAll f _ d).trans (h (s.desc d) fun hl => hM (mine.symm.trans hl)) }

/-- An entry of the context table that no other link than `L` uses. -/
def EntryOf (L : Link) (c : Option Context) : Prop := ∀ x, c = some x → x.link = L

theorem entryOf_none (L : Link) : EntryOf L none := nofun

theorem entryOf_of_link {L : Link} {c : Option Context} (h : c.map (·.link) = some L) : EntryOf L c := by
  rintro x rfl
  exact Option.some.inj h

theorem setContext_confined {L : Link} {e : EntryNo} {x : Option Context} {s : State} (old : EntryOf L (s.context e))
    (new : EntryOf L x) : Confined L s (s.setContext e x) where
  others M hM :=
    { sameLink_refl M s with
      contexts := fun i c hc => by
        rw [State.setContext_context]
        split
        · next hi =>
          subst hi
          exact ⟨fun h => absurd (hc.symm.trans (new c h)) hM, fun h => absurd (hc.symm.trans (old c h)) hM⟩
        · exact .rfl }

theorem pool_confined {L : Link} {p : Pool} {s : State} (h : p.ceiling = s.pool.ceiling) :
    Confined L s { s with pool := p } where
  others M _ := { sameLink_refl M s with settings := ⟨rfl, rfl, congrArg (Table.look · M) h, rfl⟩ }

theorem notices_confined (L : Link) (q : NoticeQueue) (s : State) : Confined L s { s with notices := q } where
  others M _ := { sameLink_refl M s with }

theorem host_confined (L : Link) (x : HostPort) (s : State) : Confined L s { s with host := x } where
  others M _ := { sameLink_refl M s with }

/-! ### The shared operations -/

theorem count_confined (L : Link) (c : CounterName) (s : State) : Confined L s (count L c s) := setPort_confined L _ s

theorem joinRequest_confined (L : Link) (r : Request) (s : State) : Confined L s (joinRequest L r s) := by
  rw [joinRequest_eq]; exact setPort_confined L _ s

theorem recordNotice_confined (L : Link) (n : Notice) (s : State) : Confined L s (recordNotice n s) := by
  rw [recordNotice_eq]; exact notices_confined L _ s

theorem returnBlocks_confined (L : Link) (bs : List BlockNo) (s : State) : Confined L s (returnBlocks bs s) :=
  pool_confined rfl

theorem freeMessage_confined {L : Link} {d : DescNo} {s : State} (h : OpenTo L (s.desc d)) :
    Confined L s (freeMessage d s) :=
  (returnBlocks_confined L _ s).trans (setDesc_confined (s := returnBlocks (s.desc d).chain s) h .cleared)

/-- A descriptor that a message's end clears is open to every link. -/
theorem openTo_freeMessages {L : Link} {d : DescNo} {s : State} (h : OpenTo L (s.desc d)) (ds : List DescNo) :
    OpenTo L ((freeMessages ds s).desc d) := by
  rw [freeMessages_desc]
  split
  · exact .inl rfl
  · exact h

theorem freeMessages_confined {L : Link} {ds : List DescNo} {s : State} (h : ∀ d ∈ ds, OpenTo L (s.desc d)) :
    Confined L s (freeMessages ds s) := by
  induction ds generalizing s with
  | nil => exact .refl L s
  | cons d ds ih =>
    exact (freeMessage_confined (h d List.mem_cons_self)).trans
      (ih fun i hi => openTo_freeMessages (h i (List.mem_cons_of_mem d hi)) [d])

/-- A context of link `L` is abandoned with its descriptor, which is of the same link. -/
theorem abandonContext_confined {L : Link} {e : EntryNo} {s : State} (h : HoldersSound s)
    (he : EntryOf L (s.context e)) : Confined L s (abandonContext e s) := by
  cases hc : s.context e with
  | none => rw [abandonContext_of_none hc]; exact .refl L s
  | some c =>
    have mine : (s.desc c.descriptor).link = L := (h.context e c hc).2.trans (he c hc)
    let t := returnBlocks (slotBlocks c) s
    have cleared : Confined L t (t.setDesc c.descriptor .cleared) := setDesc_confined (s := t) (.inr mine) _
    rw [abandonContext_eq hc]
    exact (returnBlocks_confined L _ s).trans
      (cleared.trans (setContext_confined (s := t.setDesc _ _) he (entryOf_none L)))

theorem abandonContext_entryOf {L : Link} {i : EntryNo} {s : State} (h : EntryOf L (s.context i)) (e : EntryNo) :
    EntryOf L ((abandonContext e s).context i) := by
  cases hc : s.context e with
  | none => rwa [abandonContext_of_none hc]
  | some c =>
    rw [abandonContext_eq hc, State.setContext_context]
    split
    · exact nofun
    · exact h

theorem abandonContexts_confined {L : Link} {es : List EntryNo} {s : State} (h : HoldersSound s)
    (hes : ∀ e ∈ es, EntryOf L (s.context e)) : Confined L s (abandonContexts es s) := by
  induction es generalizing s with
  | nil => exact .refl L s
  | cons e es ih =>
    exact (abandonContext_confined h (hes e List.mem_cons_self)).trans
      (ih (abandonContext_holdersSound h e)
        fun i hi => abandonContext_entryOf (hes i (List.mem_cons_of_mem e hi)) e)

theorem entriesOfLink_entryOf {L : Link} {s : State} : ∀ e ∈ s.entriesOfLink L, EntryOf L (s.context e) :=
  fun _ he => entryOf_of_link (entryOfLink_iff.1 (List.mem_filter.1 he).2)

/-! ### The reassembly unit -/

theorem clearHandedOver_confined (L : Link) (s : State) : Confined L s (clearHandedOver L s) := setPort_confined L _ s

theorem answerFragment_confined (L : Link) (f : Fragment) (k : RequestKind) (s : State) :
    Confined L s (answerFragment L f k s) := by
  unfold answerFragment
  split
  · exact joinRequest_confined L _ s
  · exact .refl L s

theorem dropNoContext_confined (L : Link) (f : Fragment) (s : State) : Confined L s (dropNoContext L f s) :=
  (count_confined L _ s).trans ((setPort_confined L _ _).trans (answerFragment_confined L f _ _))

theorem dropNoBlock_confined (L : Link) (f : Fragment) (s : State) : Confined L s (dropNoBlock L f s) :=
  (count_confined L _ s).trans ((setPort_confined L _ _).trans (answerFragment_confined L f _ _))

/-- A context is completed in the queue, the history and the port of its own link. -/
theorem completeContext_confined {e : EntryNo} {c : Context} {s : State} (he : EntryOf c.link (s.context e))
    (hd : OpenTo c.link (s.desc c.descriptor)) : Confined c.link s (completeContext e c s) := by
  have completed := setDesc_confined hd (completedDescriptor c s)
  have closed (t : State) (q : List DescNo) (k : List Key) (ht : EntryOf c.link (t.context e)) :
      Confined c.link t (((t.setReady c.link q).setContext e none).setHistory c.link k) :=
    (setReady_confined _ q t).trans
      ((setContext_confined (s := t.setReady c.link q) ht (entryOf_none _)).trans (setHistory_confined _ k _))
  simp only [completeContext]
  split
  · exact completed.trans (closed _ _ _ he)
  · exact (completed.trans (closed _ _ _ he)).trans (joinRequest_confined _ _ _)

/-- A fragment is stored in a context of link `L`, in an entry that no other link uses. -/
theorem storeFragment_confined {L : Link} {e : EntryNo} {c : Context} {s : State} (hl : c.link = L)
    (he : EntryOf L (s.context e)) (hd : OpenTo L (s.desc c.descriptor)) (f : Fragment) (b : Option BlockNo) {p : Pool}
    (hp : p.ceiling = s.pool.ceiling) : Confined L s (storeFragment e c f b { s with pool := p }) := by
  subst hl
  have new : EntryOf c.link (some (contextWith c f b)) := fun _ hx => by cases hx; rfl
  have ceiling : (storedPool b f.payload { s with pool := p }).ceiling = s.pool.ceiling := by cases b <;> exact hp
  have stored : Confined c.link s (State.setContext { s with pool := storedPool b f.payload { s with pool := p } } e
      (some (contextWith c f b))) :=
    (pool_confined ceiling).trans (setContext_confined (s := { s with pool := _ }) he new)
  rw [storeFragment_eq]
  dsimp only
  split
  · refine stored.trans (completeContext_confined (c := contextWith c f b) ?_ hd)
    rw [State.setContext_context_self]
    exact new
  · exact stored

/-- A new context takes a FREE entry and a FREE descriptor, which belong to no link. -/
theorem createContext_confined (L : Link) (f : Fragment) (s : State) : Confined L s (createContext L f s) := by
  unfold createContext
  split
  · exact dropNoContext_confined L f s
  · next e he =>
    have unused : EntryOf L (s.context e) := by rw [freeEntry_eq_some he]; exact nofun
    split
    · split
      · exact dropNoContext_confined L f s
      · next d _ hd =>
        obtain ⟨hf, rfl⟩ := claimDescriptor_eq_some.1 hd
        let t := s.setDesc d (assemblingRecord L f)
        have mine : OpenTo L (t.desc d) := .inr (by rw [State.setDesc_desc_self]; rfl)
        have stored (b : Option BlockNo) {p : Pool} (hp : p.ceiling = t.pool.ceiling) :
            Confined L t (storeFragment e (newContext L f d t) f b { t with pool := p }) :=
          storeFragment_confined (s := t) (c := newContext L f d t) rfl unused mine f b hp
        refine (setDesc_confined (.inl (lowestFree_eq_some.1 hf).1) (assemblingRecord L f)).trans ?_
        split
        · exact stored none rfl
        · split
          · exact (setDesc_confined mine _).trans (dropNoBlock_confined L f _)
          · next b _ hb =>
            obtain ⟨rest, -, rfl⟩ := grantBlock_eq_some.1 (reassemblyClaim_eq_some.1 hb).2.2
            exact stored (some b) rfl
    · exact dropNoContext_confined L f s

theorem continueContext_confined {L : Link} {e : EntryNo} {c : Context} {s : State} (h : HoldersSound s)
    (hc : s.context e = some c) (hl : c.link = L) (f : Fragment) : Confined L s (continueContext L e c f s) := by
  have entry : EntryOf L (s.context e) := fun x hx => by rw [hc] at hx; cases hx; exact hl
  have mine : OpenTo L (s.desc c.descriptor) := .inr ((h.context e c hc).2.trans hl)
  unfold continueContext
  split
  · exact count_confined L _ s
  · split
    · exact (abandonContext_confined h entry).trans (recordNotice_confined L _ _)
    · split
      · exact storeFragment_confined hl entry mine f none rfl
      · split
        · exact dropNoBlock_confined L f s
        · next b _ hb =>
          obtain ⟨rest, -, rfl⟩ := grantBlock_eq_some.1 (reassemblyClaim_eq_some.1 hb).2.2
          exact storeFragment_confined hl entry mine f (some b) rfl

theorem takeFragment_confined {L : Link} {s : State} (h : HoldersSound s) (f : Fragment) :
    Confined L s (takeFragment L f s) := by
  unfold takeFragment
  split
  · exact (count_confined L _ s).trans (answerFragment_confined L f _ _)
  · split
    · exact createContext_confined L f s
    · next e he =>
      obtain ⟨c, hc, hl, -, -⟩ := findContext_eq_some he
      simp only [hc]
      exact continueContext_confined h hc hl f

theorem takeHandedFragment_confined {L : Link} {s : State} (h : HoldersSound s) :
    Confined L s (takeHandedFragment L s) := by
  unfold takeHandedFragment
  split
  · split
    · exact (clearHandedOver_confined L s).trans (takeFragment_confined ((clearHandedOver_keeps L s).holders h) _)
    · exact .refl L s
  · exact .refl L s

theorem lifetimeExpiry_confined {L : Link} {e : EntryNo} {s : State} (h : HoldersSound s)
    (he : EntryOf L (s.context e)) : Confined L s (lifetimeExpiry e s) := by
  obtain same | ⟨c, -, -, expired⟩ := lifetimeExpiry_eq e s
  · rw [same]; exact .refl L s
  · rw [expired]; exact (abandonContext_confined h he).trans (recordNotice_confined L _ _)

end Sys2Proof.Steps
end

section
/-! PROOFS. What the events, the timers and the commands of one link leave to every other link (R93, R96, R128, R174):
the outbound scheduler, the ports and the link commands. -/

namespace Sys2Proof.Steps

open Sys2Proof.Machine Sys2Proof.Safety Sys2Proof.Statement

/-! ### The outbound scheduler -/

theorem openTo_of_outstanding {L : Link} {d : DescNo} {s : State} (h : HoldersSound s)
    (hd : d ∈ (s.sch L).outstanding) : OpenTo L (s.desc d) := .inr (h.outstanding L d hd).2

theorem endOutbound_confined {L : Link} {d : DescNo} {s : State} (h : OpenTo L (s.desc d)) :
    Confined L s (endOutbound L d s) :=
  (setSch_confined L _ s).trans (freeMessage_confined (s := leaveScheduler L d s) h)

/-- An outbound message ends after its notice is recorded. -/
theorem endOutbound_recorded_confined {L : Link} {d : DescNo} {s : State} (n : Notice) (h : OpenTo L (s.desc d)) :
    Confined L s (endOutbound L d (recordNotice n s)) :=
  (recordNotice_confined L n s).trans (endOutbound_confined (by rw [recordNotice_eq]; exact h))

theorem finishDone_confined {L : Link} {d : DescNo} {s : State} (h : OpenTo L (s.desc d)) :
    Confined L s (finishDone L d s) := by
  unfold finishDone
  split
  · exact endOutbound_recorded_confined _ h
  · exact endOutbound_confined h

theorem finishFailed_confined {L : Link} {d : DescNo} {s : State} (r : FailReason) (h : OpenTo L (s.desc d)) :
    Confined L s (finishFailed L d r s) :=
  endOutbound_recorded_confined _ h

/-- A message of link `L` and the scheduler of link `L` change together. -/
theorem setDesc_setSch_confined {L : Link} {d : DescNo} {s : State} (h : OpenTo L (s.desc d)) (x : Descriptor)
    (y : Scheduler) : Confined L s ((s.setDesc d x).setSch L y) :=
  (setDesc_confined h x).trans (setSch_confined L y _)

theorem enterBackoff_confined {L : Link} {d : DescNo} {s : State} (h : OpenTo L (s.desc d)) :
    Confined L s (enterBackoff L d s) := setDesc_setSch_confined h _ _

theorem enterResend_confined {L : Link} {d : DescNo} {s : State} (h : OpenTo L (s.desc d)) :
    Confined L s (enterResend L d s) := setDesc_setSch_confined h _ _

theorem takeHandedAck_confined {L : Link} {s : State} (h : HoldersSound s) : Confined L s (takeHandedAck L s) := by
  unfold takeHandedAck takeAck
  split
  · refine (clearHandedOver_confined L s).trans ?_
    split
    · next hm => exact finishDone_confined (openTo_of_outstanding (s := s) h (matching_eq_some hm).1)
    · exact count_confined L _ _
  · exact .refl L s

theorem takeHandedRefuse_confined {L : Link} {s : State} (h : HoldersSound s) :
    Confined L s (takeHandedRefuse L s) := by
  unfold takeHandedRefuse takeRefuse
  split
  · refine (clearHandedOver_confined L s).trans ?_
    split
    · next hm =>
      have mine := openTo_of_outstanding (s := s) h (matching_eq_some hm).1
      split
      · split
        · exact enterBackoff_confined mine
        · exact finishFailed_confined _ mine
      · exact count_confined L _ _
    · exact count_confined L _ _
  · exact .refl L s

theorem takeHandedOver_confined {L : Link} {s : State} (h : HoldersSound s) : Confined L s (takeHandedOver L s) := by
  have fragment := (takeHandedFragment_keeps L s).holders h
  have ack := (takeHandedAck_keeps L _).holders fragment
  exact (takeHandedFragment_confined h).trans ((takeHandedAck_confined fragment).trans (takeHandedRefuse_confined ack))

theorem ackWaitExpiry_confined (d : DescNo) (s : State) : Confined (s.desc d).link s (ackWaitExpiry d s) := by
  obtain same | ⟨-, -, expired⟩ := ackWaitExpiry_eq d s
  · rw [same]; exact .refl _ s
  · rw [expired]
    simp only [expireWait]
    split
    · exact enterResend_confined (.inr rfl)
    · exact finishFailed_confined _ (.inr rfl)

theorem backoffExpiry_confined (d : DescNo) (s : State) : Confined (s.desc d).link s (backoffExpiry d s) := by
  obtain same | ⟨-, -, expired⟩ := backoffExpiry_eq d s
  · rw [same]; exact .refl _ s
  · rw [expired]; exact enterResend_confined (.inr rfl)

/-- The message offered is one that a list of the link names. -/
theorem takeOffer_confined {L : Link} {o : Offer} {s : State} (h : HoldersSound s) (ho : s.offer L = some o) :
    Confined L s (takeOffer L o s) := by
  obtain ⟨d, rfl, -⟩ | ⟨-, ⟨d, rest, rfl, hr⟩ | ⟨d, rest, rfl, hq⟩⟩ := offer_cases ho
  · exact setSch_confined L _ s
  · have mine : OpenTo L (s.desc d) := .inr (h.resend L d (by simp [hr])).2
    exact (setDesc_setSch_confined mine _ _).trans (setSch_confined L _ _)
  · have mine : OpenTo L (s.desc d) := .inr (h.queued L d (by simp [hq])).2
    exact (setDesc_setSch_confined mine _ _).trans (setSch_confined L _ _)

theorem clearLine_confined (L : Link) (s : State) : Confined L s (clearLine L s) := setSch_confined L _ s

theorem fragmentSent_confined {L : Link} {d : DescNo} {s : State} (n : Nat) (h : OpenTo L (s.desc d)) :
    Confined L s (fragmentSent L d n s) := by
  unfold fragmentSent
  split
  · exact setDesc_confined h _
  · split
    · exact finishDone_confined h
    · exact setDesc_confined h _

theorem reportFrameEnd_confined {L : Link} {s : State} (h : HoldersSound s) : Confined L s (reportFrameEnd L s) := by
  unfold reportFrameEnd
  split
  · next n d hr =>
    split
    · exact (fragmentSent_confined n (.inr (h.line L n d hr).2)).trans (clearLine_confined L _)
    · exact clearLine_confined L s
  · exact clearLine_confined L s

theorem stopSending_confined {L : Link} {s : State} (h : HoldersSound s) : Confined L s (stopSending L s) := by
  unfold stopSending
  split
  · next hd =>
    have mine := openTo_of_outstanding h (sendingOf_eq_some hd).1
    split
    · exact enterResend_confined mine
    · exact finishFailed_confined _ mine
  · exact .refl L s

theorem suspendDeadlines_confined (L : Link) (s : State) : Confined L s (suspendDeadlines L s) :=
  mapAll_confined (fun _ hx => if_neg fun k => hx k.1) s

theorem rearmDeadlines_confined (L : Link) (s : State) : Confined L s (rearmDeadlines L s) :=
  mapAll_confined (fun _ hx => (if_neg fun k => hx k.1).trans (if_neg fun k => hx k.1)) s

/-! ### The transmitters and the receivers -/

theorem takeFrameStart_confined {L : Link} {s : State} (h : HoldersSound s) : Confined L s (takeFrameStart L s) := by
  unfold takeFrameStart startFrame
  split
  · split
    · exact (setPort_confined L _ s).trans (setPort_confined L _ _)
    · split
      · next ho => exact (takeOffer_confined h ho).trans (setPort_confined L _ _)
      · exact .refl L s
  · exact .refl L s

theorem enterOff_confined {L : Link} {s : State} (h : HoldersSound s) : Confined L s (enterOff L s) := by
  let t := abandonContexts (s.entriesOfLink L) s
  let u := t.setPort L { t.port L with state := .off, controlQueue := [] }
  have off : Keeps t u := setPort_keeps nofun
  have sound : HoldersSound u := off.holders ((abandonContexts_keep _ s).holders h)
  exact (abandonContexts_confined h entriesOfLink_entryOf).trans ((setPort_confined L _ t).trans
    ((stopSending_confined sound).trans ((suspendDeadlines_confined L _).trans (recordNotice_confined L _ _))))

theorem endFrame_confined {L : Link} {s : State} (h : HoldersSound s) : Confined L s (endFrame L s) := by
  have gap : Keeps s (enterGap L s) := setPort_keeps_of_state rfl
  have sound : HoldersSound (enterGap L s) := gap.holders h
  have reported : Confined L s (reportFrameEnd L (enterGap L s)) :=
    (setPort_confined L _ s).trans (reportFrameEnd_confined sound)
  simp only [endFrame]
  split
  · exact reported.trans (enterOff_confined ((reportFrameEnd_keeps L _).holders sound))
  · exact reported

theorem frameEnded_confined {L : Link} {s : State} (h : HoldersSound s) :
    Confined L s (if (s.port L).transmitter = .active then endFrame L s else s) := by
  split
  · exact endFrame_confined h
  · exact .refl L s

theorem gapEnded_confined (L : Link) (s : State) :
    Confined L s (if (s.port L).transmitter = .gap ∧ s.host.resetLow = false then enterIdle L s else s) := by
  split
  · exact setPort_confined L _ s
  · exact .refl L s

theorem confined_of_receiverOnly {L : Link} {s t : State} (h : ReceiverOnly L s t) : Confined L s t := by
  obtain ⟨q, rfl, -⟩ := h
  exact setPort_confined L q s

theorem finishFrame_confined {L : Link} {s : State} (h : HoldersSound s) : Confined L s (finishFrame L s) := by
  unfold finishFrame
  split
  · exact (takeHandedOver_confined h).trans (confined_of_receiverOnly (completeFrame_receiverOnly L _))
  · exact .refl L s

theorem concludeFrame_confined {L : Link} {s : State} (h : HoldersSound s) : Confined L s (concludeFrame L s) :=
  (finishFrame_confined h).trans (confined_of_receiverOnly (discardOversized_receiverOnly L _))

theorem receiveCharacter_confined {L : Link} {s : State} (h : HoldersSound s) (b : Byte) :
    Confined L s (receiveCharacter L b s) :=
  (concludeFrame_confined h).trans (confined_of_receiverOnly (hearCharacter_receiverOnly L b _))

theorem receiveError_confined {L : Link} {s : State} (h : HoldersSound s) : Confined L s (receiveError L s) :=
  (concludeFrame_confined h).trans (confined_of_receiverOnly (hearError_receiverOnly L _))

/-! ### The commands of a link -/

/-- What a command leaves of other links is what its own rule leaves of them. -/
theorem issueCommand_confined {L : Link} {code : Byte} {body : State → State × CommandOutcome} {s : State}
    (h : Confined L s (body s).1) : Confined L s (issueCommand code body s) := by
  unfold issueCommand hostWrite
  split
  · exact .refl L s
  · dsimp only
    split
    · exact host_confined L _ s
    · exact h.trans (host_confined L _ _)

theorem linkStartBody_confined {L : Link} {s : State} (hL : s.linkParameter = some L) :
    Confined L s (linkStartBody s).1 := by
  simp only [linkStartBody, hL]
  split
  · split
    · exact .refl L s
    · exact (setPort_confined L _ s).trans (rearmDeadlines_confined L _)
  all_goals exact .refl L s

theorem stopLink_confined {L : Link} {s : State} (h : HoldersSound s) : Confined L s (stopLink L s) := by
  let t := disableReceiver L s
  let u := t.setPort L { t.port L with state := .stopping }
  have disabled : Keeps s t := setPort_keeps_of_state rfl
  have stopping : Keeps t u := setPort_keeps nofun
  have stopped : Confined L s u := (setPort_confined L _ s).trans (setPort_confined L _ t)
  simp only [stopLink]
  split
  · exact stopped
  · exact stopped.trans (enterOff_confined (stopping.holders (disabled.holders h)))

theorem linkStopBody_confined {L : Link} {s : State} (h : HoldersSound s) (hL : s.linkParameter = some L) :
    Confined L s (linkStopBody s).1 := by
  simp only [linkStopBody, hL]
  split
  · exact stopLink_confined h
  all_goals exact .refl L s

/-- Each message of a link stays open to it while the others end (R44, R60, R166). -/
theorem freeLinkMessages_confined {L : Link} {s : State} (h : HoldersSound s) :
    Confined L s (freeMessages (s.outstandingAscending L) (freeMessages (s.sch L).outboundQueue
      ((freeMessages (s.ready L) s).setReady L []))) := by
  let t := (freeMessages (s.ready L) s).setReady L []
  have ready : ∀ d ∈ s.ready L, OpenTo L (s.desc d) := fun d hd => .inr (h.ready L d hd).2
  have queued : ∀ d ∈ (s.sch L).outboundQueue, OpenTo L (t.desc d) := fun d hd =>
    openTo_freeMessages (.inr (h.queued L d hd).2) _
  have outstanding : ∀ d ∈ s.outstandingAscending L, OpenTo L ((freeMessages (s.sch L).outboundQueue t).desc d) :=
    fun d hd => openTo_freeMessages (s := t)
      (openTo_freeMessages (openTo_of_outstanding h (mem_outstandingAscending.1 hd)) _) _
  exact (freeMessages_confined ready).trans ((setReady_confined L [] _).trans
    ((freeMessages_confined queued).trans (freeMessages_confined outstanding)))

/-- The lists that LINK RESET frees are those of its link after the contexts are abandoned, too. -/
theorem resetLink_confined {L : Link} {s : State} (h : HoldersSound s) : Confined L s (resetLink L s) := by
  let t := (abandonContexts (s.entriesOfLink L) s).setHistory L []
  obtain ⟨ready, sched⟩ := abandonContexts_ready_sch (s.entriesOfLink L) s L
  have kept : Keeps s t := (abandonContexts_keep _ s).trans (reasm_keeps rfl)
  have abandoned : Confined L s t :=
    (abandonContexts_confined h entriesOfLink_entryOf).trans (setHistory_confined L [] _)
  have messages : t.ready L = s.ready L := ready
  have scheduler : t.sch L = s.sch L := sched
  have outstanding : t.outstandingAscending L = s.outstandingAscending L := by
    simp only [State.outstandingAscending, scheduler]
  have freed := freeLinkMessages_confined (L := L) (kept.holders h)
  rw [messages, scheduler, outstanding] at freed
  simp only [resetLink]
  exact (abandoned.trans freed).trans ((setSch_confined L _ _).trans
    ((setPort_confined L _ _).trans (recordNotice_confined L _ _)))

theorem linkResetBody_confined {L : Link} {s : State} (h : HoldersSound s) (hL : s.linkParameter = some L) :
    Confined L s (linkResetBody s).1 := by
  simp only [linkResetBody, hL]
  exact resetLink_confined h

theorem countersClearBody_confined {L : Link} {s : State} (hL : s.linkParameter = some L) :
    Confined L s (countersClearBody s).1 := by
  simp only [countersClearBody, hL]
  exact setPort_confined L _ s

/-- The message withdrawn is outstanding or queued on its link. -/
theorem outWithdrawBody_confined {L : Link} {s : State} (h : HoldersSound s) (hL : s.linkParameter = some L) :
    Confined L s (outWithdrawBody s).1 := by
  simp only [outWithdrawBody, hL]
  split
  · exact .refl L s
  · next d hd =>
    split
    · exact .refl L s
    · refine endOutbound_confined ?_
      obtain outstanding | queued := List.mem_append.1 (List.mem_of_find?_eq_some hd)
      · exact openTo_of_outstanding h outstanding
      · exact .inr (h.queued L d queued).2

/-! ### Every event, timer and command of a link -/

/-- An event of link `L` names it, an expiry is of an entry or a descriptor of it, and a command has it in P0; every
other command concerns no link. -/
theorem exec_confined {c : Instr} {s : State} {L : Link} (h : HoldersSound s) (hc : concerns s c = some L) :
    ∃ t, exec c s = .next t ∧ Confined L s t := by
  cases c <;> try cases hc
  case contextLifetimeExpiry e => exact ⟨_, rfl, lifetimeExpiry_confined h (entryOf_of_link hc)⟩
  case acknowledgementWaitExpiry d => exact ⟨_, rfl, ackWaitExpiry_confined d s⟩
  case refuseBackoffExpiry d => exact ⟨_, rfl, backoffExpiry_confined d s⟩
  case settlingGapEnd => exact ⟨_, rfl, confined_of_receiverOnly (endSettling_receiverOnly L s)⟩
  case rxFrameComplete => exact ⟨_, rfl, finishFrame_confined h⟩
  case truncation => exact ⟨_, rfl, confined_of_receiverOnly (truncateFrame_receiverOnly L s)⟩
  case characterError => exact ⟨_, rfl, receiveError_confined h⟩
  case oversizedPayloadLength => exact ⟨_, rfl, confined_of_receiverOnly (discardOversized_receiverOnly L s)⟩
  case characterReceived b => exact ⟨_, rfl, receiveCharacter_confined h b⟩
  case fragment => exact ⟨_, rfl, takeHandedFragment_confined h⟩
  case ackReceived => exact ⟨_, rfl, takeHandedAck_confined h⟩
  case refuseReceived => exact ⟨_, rfl, takeHandedRefuse_confined h⟩
  case frameStart => exact ⟨_, rfl, takeFrameStart_confined h⟩
  case frameEnd => exact ⟨_, rfl, frameEnded_confined h⟩
  case txGapEnd => exact ⟨_, rfl, gapEnded_confined L s⟩
  case linkStart => exact ⟨_, rfl, issueCommand_confined (linkStartBody_confined hc)⟩
  case linkStop => exact ⟨_, rfl, issueCommand_confined (linkStopBody_confined h hc)⟩
  case linkReset => exact ⟨_, rfl, issueCommand_confined (linkResetBody_confined h hc)⟩
  case countersClear => exact ⟨_, rfl, issueCommand_confined (countersClearBody_confined hc)⟩
  case outWithdraw => exact ⟨_, rfl, issueCommand_confined (outWithdrawBody_confined h hc)⟩

/-- Settles O33: the operations of a link change its own parts, and of the descriptors only FREE ones and those of its
own messages, which the invariant of the holders gives. -/
theorem linksAreIndependent : Obligations.LinksAreIndependent := by
  intro c s t L M h hc hM ht
  obtain ⟨u, hu, confined⟩ := exec_confined h hc
  obtain rfl : u = t := by rw [hu] at ht; exact Host.Outcome.next.inj ht
  exact confined.others M hM

end Sys2Proof.Steps
end

section
/-! PROOFS. The bids, the winner, ATTN and the global status (R105 to R111, R186), and what the host does with the item
in the service context: RELEASE, REQUEUE, the read data port and the read cursor (R119 to R121, R124 to R127). -/

namespace Sys2Proof.Steps

open Sys2Proof.Machine Sys2Proof.Safety Sys2Proof.Statement

/-! ### The winner and the sources it is chosen from (R111) -/

theorem mem_allSources (x : Source) : x ∈ allSources := by
  cases x with
  | link L => fin_cases L <;> simp [allSources]
  | noticeQueue => simp [allSources]

/-- The sources are offered to the choice in the order of their numbers. -/
theorem allSources_ordered : allSources.Pairwise fun x y => x.number ≤ y.number := by decide

theorem Source.number_injective : Function.Injective Source.number := by
  rintro (L | _) (M | _) same
  · exact congrArg Source.link (Fin.ext same)
  · exact absurd same (Nat.ne_of_lt L.isLt)
  · exact absurd same.symm (Nat.ne_of_lt M.isLt)
  · rfl

/-- The choice among some sources: one of them that is outbid by none and has the lowest number of those that bid the
same, or none of them when none bids. -/
def BestAmong (s : State) (sources : List Source) : Option (Source × Nat) → Prop
  | none => ∀ y ∈ sources, s.bid y = none
  | some (x, n) => x ∈ sources ∧ ∀ y ∈ sources, ∀ m, s.bid y = some m → m < n ∨ m = n ∧ x.number ≤ y.number

/-- One more source, whose number is not lower, replaces the best so far only by outbidding it. -/
theorem betterBid_bestAmong {s : State} {sources : List Source} {best : Option (Source × Nat)} {x : Source}
    (h : BestAmong s sources best) (later : ∀ y ∈ sources, y.number ≤ x.number) :
    BestAmong s (sources ++ [x]) (betterBid s best x) := by
  cases bid : s.bid x with
  | none =>
    simp only [betterBid, bid]
    obtain _ | ⟨y, m⟩ := best
    · exact List.forall_mem_append.2 ⟨h, by simpa using bid⟩
    · exact ⟨List.mem_append_left _ h.1, List.forall_mem_append.2 ⟨h.2, by simp [bid]⟩⟩
  | some n =>
    obtain _ | ⟨y, m⟩ := best
    · simp only [betterBid, bid]
      refine ⟨by simp, List.forall_mem_append.2 ⟨fun z hz k hk => ?_, by simp [bid]⟩⟩
      rw [h z hz] at hk
      cases hk
    · obtain ⟨hy, best⟩ := h
      by_cases higher : m < n
      · simp only [betterBid, bid, if_pos higher]
        refine ⟨by simp, List.forall_mem_append.2 ⟨fun z hz k hk => .inl ?_, by simp [bid]⟩⟩
        obtain below | ⟨same, -⟩ := best z hz k hk
        · exact below.trans higher
        · exact same ▸ higher
      · simp only [betterBid, bid, if_neg higher]
        have notAbove : n < m ∨ n = m ∧ y.number ≤ x.number :=
          (Nat.lt_or_eq_of_le (not_lt.1 higher)).imp_right (⟨·, later y hy⟩)
        exact ⟨List.mem_append_left _ hy, List.forall_mem_append.2 ⟨best, by simpa [bid] using notAbove⟩⟩

theorem foldl_betterBid_bestAmong {s : State} {sources : List Source}
    (ordered : sources.Pairwise fun x y => x.number ≤ y.number) :
    BestAmong s sources (sources.foldl (betterBid s) none) := by
  induction sources using List.reverseRecOn with
  | nil => exact nofun
  | append_singleton sources x ih =>
    obtain ⟨before, -, later⟩ := List.pairwise_append.1 ordered
    rw [List.foldl_concat]
    exact betterBid_bestAmong (ih before) fun y hy => later y hy x (List.mem_singleton_self x)

theorem winner_bestAmong (s : State) : BestAmong s allSources s.winner := foldl_betterBid_bestAmong allSources_ordered

theorem winner_eq_none_iff {s : State} : s.winner = none ↔ ∀ x, s.bid x = none := by
  refine ⟨fun h x => ?_, winner_eq_none_of_no_bid⟩
  have best := winner_bestAmong s
  rw [h] at best
  exact best x (mem_allSources x)

/-- A candidate bids below the winner, or the same with a number that is not lower. -/
theorem bid_of_candidate {s : State} {x y : Source} {m n : Nat} (h : s.winner = some (x, n)) (hy : s.bid y = some m) :
    m < n ∨ m = n ∧ x.number ≤ y.number := by
  have best := winner_bestAmong s
  rw [h] at best
  exact best.2 y (mem_allSources y) m hy

theorem winner_eq_some_iff {s : State} {x : Source} {n : Nat} :
    s.winner = some (x, n) ↔ s.bid x = some n ∧ (∀ y m, s.bid y = some m → m ≤ n) ∧
      ∀ y, s.bid y = some n → x.number ≤ y.number := by
  constructor
  · intro h
    refine ⟨bid_of_winner h, fun y m hy => ?_, fun y hy => ?_⟩
    · have := bid_of_candidate h hy
      omega
    · have := bid_of_candidate h hy
      omega
  · rintro ⟨bid, highest, lowest⟩
    cases hw : s.winner with
    | none => exact absurd bid (by simp [winner_eq_none_iff.1 hw x])
    | some w =>
      obtain ⟨y, m⟩ := w
      have bidY : s.bid y = some m := bid_of_winner hw
      have notAbove := highest y m bidY
      obtain ⟨rfl, number⟩ : n = m ∧ y.number ≤ x.number := by
        have := bid_of_candidate hw bid
        omega
      rw [Source.number_injective (le_antisymm number (lowest y bidY))]

/-! ### The lead, ATTN and the global status (R109, R110, R186) -/

theorem leadSource_of_winner {s : State} {x : Source} {n : Nat} (h : s.winner = some (x, n)) :
    s.leadSource = x.number := by simp [State.leadSource, h]

theorem leadBid_of_winner {s : State} {x : Source} {n : Nat} (h : s.winner = some (x, n)) : s.leadBid = n := by
  simp [State.leadBid, h]

theorem lead_of_no_winner {s : State} (h : s.winner = none) : s.leadSource = 0 ∧ s.leadBid = 0 := by
  simp [State.leadSource, State.leadBid, h]

/-- The lead bid is above a number exactly when some candidate's bid is. -/
theorem lt_leadBid_iff {s : State} {k : Nat} : k < s.leadBid ↔ ∃ x n, s.bid x = some n ∧ k < n := by
  cases hw : s.winner with
  | none => simp [(lead_of_no_winner hw).2, winner_eq_none_iff.1 hw]
  | some w =>
    obtain ⟨x, n⟩ := w
    rw [leadBid_of_winner hw]
    obtain ⟨bid, highest, -⟩ := winner_eq_some_iff.1 hw
    exact ⟨fun h => ⟨x, n, bid, h⟩, fun ⟨y, m, hy, h⟩ => h.trans_le (highest y m hy)⟩

theorem attn_iff {s : State} : s.attn = true ↔ s.arbiter.attentionEnable = true ∧ s.arbiter.service = .empty ∧
    ∃ x n, s.bid x = some n ∧ s.arbiter.threshold < n := by
  simp only [State.attn, Bool.and_eq_true, beq_iff_eq, decide_eq_true_eq, lt_leadBid_iff, and_assoc]

theorem getLsbD_bitAt (place : Nat) (b : Bool) {n : Nat} (h : n < 8) :
    (bitAt place b).getLsbD n = (b && decide (place = n)) := by
  cases b with
  | false => simp [bitAt]
  | true => rw [bitAt, if_pos rfl, BitVec.getLsbD_ofNat, decide_eq_true h, Nat.testBit_two_pow]

/-- The bits of the byte at address 03h. -/
theorem getLsbD_globalStatus (s : State) :
    s.globalStatus.getLsbD 0 = (s.host.device == .ready) ∧ s.globalStatus.getLsbD 1 = s.host.cfgReject ∧
    s.globalStatus.getLsbD 2 = s.arbiter.overread ∧ s.globalStatus.getLsbD 3 = s.compose.stalled ∧
    s.globalStatus.getLsbD 4 = s.compose.overlong ∧ s.globalStatus.getLsbD 5 = s.compose.descriptor.isSome ∧
    s.globalStatus.getLsbD 6 = s.attn ∧ s.globalStatus.getLsbD 7 = false := by
  simp only [State.globalStatus, BitVec.getLsbD_or, getLsbD_bitAt, Nat.reduceLT, Nat.reduceEqDiff, decide_true,
    decide_false, Bool.and_true, Bool.and_false, Bool.or_false, Bool.false_or, and_self]

/-- Settles O37: the fold over the sources in the order of their numbers keeps the best among those seen. -/
theorem winnerHasTheHighestBid : Obligations.WinnerHasTheHighestBid := by
  intro s
  refine ⟨fun x n => winner_eq_some_iff, winner_eq_none_iff, attn_iff, fun x n h => ⟨?_, ?_⟩, fun h => ⟨?_, ?_⟩, ?_⟩
  · exact congrArg lowByte (leadSource_of_winner h)
  · exact congrArg lowByte (leadBid_of_winner h)
  · exact congrArg lowByte (lead_of_no_winner h).1
  · exact congrArg lowByte (lead_of_no_winner h).2
  · have status : windowRead s 0x03 = s.globalStatus := rfl
    obtain ⟨b0, b1, b2, b3, b4, b5, b6, b7⟩ := getLsbD_globalStatus s
    simp only [status, b0, b1, b2, b3, b4, b5, b6, b7, beq_iff_eq, Option.isSome_iff_ne_none, Bool.false_eq_true,
      not_false_eq_true, iff_self, and_self]

/-! ### Bids (R105, R106) -/

theorem bid_link_of_nil {s : State} {L : Link} (h : s.ready L = []) : s.bid (.link L) = none := by
  simp only [State.bid, State.linkBid, h]

theorem bid_link_of_cons {s : State} {L : Link} {d : DescNo} {rest : List DescNo} (h : s.ready L = d :: rest) :
    s.bid (.link L) = some (s.arbiter.linkWeight.look L * 32 + min 31 ((s.ready L).length + (s.desc d).age)) := by
  simp only [State.bid, State.linkBid, h]

theorem bid_noticeQueue_of_nil {s : State} (h : s.notices.records = []) : s.bid .noticeQueue = none := if_pos h

theorem bid_noticeQueue_of_ne_nil {s : State} (h : s.notices.records ≠ []) :
    s.bid .noticeQueue = some (s.arbiter.noticeWeight * 32 + min 31 s.notices.records.length) := if_neg h

/-- Every candidate has an item, so its urgency is at least 1; with a legal weight its bid fits in a byte. -/
theorem bid_in_range {s : State} (legal : SettingsLegal s) {x : Source} {n : Nat} (h : s.bid x = some n) :
    1 ≤ n ∧ n ≤ 255 := by
  cases x with
  | link L =>
    have weight := (legal.links L).weight
    cases hq : s.ready L with
    | nil => simp [bid_link_of_nil hq] at h
    | cons d rest =>
      have items : 0 < (s.ready L).length := by simp [hq]
      obtain rfl := Option.some.inj ((bid_link_of_cons hq).symm.trans h)
      omega
  | noticeQueue =>
    have weight := legal.noticeWeight
    by_cases hq : s.notices.records = []
    · simp [bid_noticeQueue_of_nil hq] at h
    · have items := List.length_pos_of_ne_nil hq
      obtain rfl := Option.some.inj ((bid_noticeQueue_of_ne_nil hq).symm.trans h)
      omega

/-- Settles O36: the bid of each source by whether it has an item. -/
theorem bidsAreWeightAndUrgency : Obligations.BidsAreWeightAndUrgency := fun _ =>
  ⟨fun _ => bid_link_of_nil, fun _ _ _ => bid_link_of_cons, bid_noticeQueue_of_nil, bid_noticeQueue_of_ne_nil,
    fun legal _ _ => bid_in_range legal⟩

/-! ### RELEASE and REQUEUE (R119 to R121) -/

/-- Settles O40: a notice has no chain and no descriptor, so only the service context is emptied. -/
theorem releaseOfANoticeOrOfNothing : Obligations.ReleaseOfANoticeOrOfNothing := by
  intro s operational
  have release : exec .release s = .next (recordOutcome 0x12 (releaseBody s).2 (releaseBody s).1) :=
    congrArg Host.Outcome.next (issueCommand_operational operational)
  rw [release]
  refine ⟨fun bid r held => ?_, fun empty => ?_⟩
  · have body : releaseBody s = (emptyService s, .ok) := by simp only [releaseBody, held]
    rw [body]
    rfl
  · have body : releaseBody s = (s, .state) := by simp only [releaseBody, empty]
    rw [body]
    rfl

theorem requeueBody_of_message {s : State} {source : Link} {bid : Nat} {d : DescNo}
    (h : s.arbiter.service = .message source bid d) : requeueBody s = (emptyService (requeueMessage d s), .ok) := by
  simp only [requeueBody, h]

theorem requeueBody_of_notice {s : State} {bid : Nat} {r : Notice} (h : s.arbiter.service = .notice bid r) :
    requeueBody s = if s.notices.records.length < 32 then
      (emptyService { s with notices := { s.notices with records := r :: s.notices.records } }, .ok)
    else (s, .noRoom) := by
  simp only [requeueBody, h]

theorem requeueBody_of_empty {s : State} (h : s.arbiter.service = .empty) : requeueBody s = (s, .state) := by
  simp only [requeueBody, h]

/-- Settles O41: what the service context holds decides, and for a notice the room in its queue. -/
theorem requeueReturnsTheItem : Obligations.RequeueReturnsTheItem := by
  intro s operational
  have requeue : exec .requeue s = .next (recordOutcome 0x13 (requeueBody s).2 (requeueBody s).1) :=
    congrArg Host.Outcome.next (issueCommand_operational operational)
  rw [requeue]
  refine ⟨fun source bid d held => ?_, fun bid r held room => ?_, fun bid r held full => ?_, fun empty => ?_⟩
  · rw [requeueBody_of_message held]
    rfl
  · rw [requeueBody_of_notice held, if_pos room]
    rfl
  · rw [requeueBody_of_notice held, if_neg (not_lt.2 full)]
    rfl
  · rw [requeueBody_of_empty empty]
    rfl

/-! ### The read data port and the read cursor (R124 to R127) -/

theorem serviceDescriptor_of_message {s : State} {source : Link} {bid : Nat} {d : DescNo}
    (h : s.arbiter.service = .message source bid d) : s.serviceDescriptor = some d := by
  simp only [State.serviceDescriptor, h]

theorem serviceLength_of_message {s : State} {source : Link} {bid : Nat} {d : DescNo}
    (h : s.arbiter.service = .message source bid d) : s.serviceLength = (s.desc d).length := by
  simp [State.serviceLength, serviceDescriptor_of_message h]

theorem serviceLength_of_no_message {s : State}
    (h : s.arbiter.service = .empty ∨ ∃ bid r, s.arbiter.service = .notice bid r) : s.serviceLength = 0 := by
  obtain h | ⟨bid, r, h⟩ := h <;> simp [State.serviceLength, State.serviceDescriptor, h]

/-- The byte under the cursor is in the block of the chain that the cursor's block number gives. -/
theorem dataPort_below {s : State} {d : DescNo} {b : BlockNo} (hd : s.serviceDescriptor = some d)
    (below : s.arbiter.cursor < (s.desc d).length) (hb : (s.desc d).chain[s.arbiter.cursor / 64]? = some b) :
    s.dataPort = Memory.read s.pool.blocks (64 * b.val + s.arbiter.cursor % 64) := by
  simp only [State.dataPort, hd, if_pos below, State.messageByte, hb]
  rfl

/-- Nothing is left to read: the message has ended, or there is none. -/
theorem dataPort_of_serviceLength_le {s : State} (ended : s.serviceLength ≤ s.arbiter.cursor) : s.dataPort = 0 := by
  cases hd : s.serviceDescriptor with
  | none => simp only [State.dataPort, hd]
  | some d =>
    have length : s.serviceLength = (s.desc d).length := by simp [State.serviceLength, hd]
    simp only [State.dataPort, hd, if_neg (not_lt.2 (length ▸ ended))]

/-- In READY a read of the port advances the cursor below the length, and else sets OVERREAD. -/
theorem readDataPort_ready {s : State} (ready : s.host.device = .ready) :
    readDataPort s = if s.arbiter.cursor < s.serviceLength then
      { s with arbiter := { s.arbiter with cursor := s.arbiter.cursor + 1 } }
    else { s with arbiter := { s.arbiter with overread := true } } := by simp only [readDataPort, ready]

theorem readDataPort_initialising {s : State} (h : s.host.device = .initialising) : readDataPort s = s := by
  simp only [readDataPort, h]

/-- Settles O42: the held message's length bounds the cursor, and without a message the bound is 0. -/
theorem readDataPortAndReadCursor : Obligations.ReadDataPortAndReadCursor := by
  intro s v high value length
  have bound : s.serviceLength = length := by
    cases held : s.arbiter.service with
    | empty => simp only [length, held, serviceLength_of_no_message (.inl held)]
    | message source bid d => simp only [length, held, serviceLength_of_message held]
    | notice bid r => simp only [length, held, serviceLength_of_no_message (.inr ⟨bid, r, held⟩)]
  have write : exec (.readCursorHighWrite v) s = .next (writeCursorHigh v s) :=
    congrArg Host.Outcome.next (hostWrite_high high)
  have read : exec .readDataPortRead s = .next (driveBus s.dataPort (readDataPort s)) :=
    congrArg Host.Outcome.next (hostRead_high high)
  have value_eq : ofBytes v s.arbiter.cursorWriteLatch = value := rfl
  refine ⟨congrArg Host.Outcome.next (hostWrite_high high), fun ready inside => ?_, fun ready beyond => ?_,
    fun initialising => ?_, congrArg Host.Outcome.next (hostRead_high high),
    fun source bid d b ready held below hb => ?_, fun ready ended => ?_, fun initialising empty => ?_⟩
  · simp only [write, writeCursorHigh, ready, bound, value_eq, if_pos inside]
  · simp only [write, writeCursorHigh, ready, bound, value_eq, if_neg (not_le.2 beyond)]
  · simp only [write, writeCursorHigh, initialising]
  · have inside : s.arbiter.cursor < s.serviceLength := serviceLength_of_message held ▸ below
    rw [read, dataPort_below (serviceDescriptor_of_message held) below hb]
    rw [readDataPort_ready ready, if_pos inside]
    rfl
  · have ended : s.serviceLength ≤ s.arbiter.cursor := by
      obtain ⟨source, bid, d, held, past⟩ | none := ended
      · exact serviceLength_of_message held ▸ past
      · exact serviceLength_of_no_message none ▸ Nat.zero_le _
    rw [read, dataPort_of_serviceLength_le ended]
    rw [readDataPort_ready ready, if_neg (not_lt.2 ended)]
    rfl
  · have nothing : s.serviceLength ≤ s.arbiter.cursor :=
      serviceLength_of_no_message (.inl empty) ▸ Nat.zero_le _
    rw [read, dataPort_of_serviceLength_le nothing, readDataPort_initialising initialising]
    rfl

end Sys2Proof.Steps
end

section
/-! PROOFS. The outbound scheduler: the tag that is given, the expiries of waiting messages, refusals, frames that match
nothing, and OUT_WITHDRAW (chapter 9). -/

namespace Sys2Proof.Steps

open Sys2Proof.Machine Sys2Proof.Safety Sys2Proof.Statement

/-! ### The tag given (R149) -/

/-- The search passes over tags in use alone, and while it may pass over more it ends at a tag not in use. -/
theorem firstFreeTag_spec (inUse : List Tag) (fuel : Nat) (t : Tag) :
    ∃ k ≤ fuel, firstFreeTag inUse fuel t = t + Fin.ofNat 64 k ∧ (∀ j < k, t + Fin.ofNat 64 j ∈ inUse) ∧
      (k < fuel → firstFreeTag inUse fuel t ∉ inUse) := by
  induction fuel generalizing t with
  | zero => exact ⟨0, le_rfl, (add_zero t).symm, nofun, nofun⟩
  | succ fuel ih =>
    unfold firstFreeTag
    split
    · next used =>
      obtain ⟨k, hk, found, passed, free⟩ := ih (t + 1)
      have shift (j : Nat) : t + 1 + Fin.ofNat 64 j = t + Fin.ofNat 64 (j + 1) := by
        ext
        simp only [Fin.val_add, Fin.val_ofNat, Fin.val_one]
        omega
      refine ⟨k + 1, by omega, found.trans (shift k), fun j hj => ?_, fun h => free (by omega)⟩
      cases j with
      | zero => exact (add_zero t).symm ▸ used
      | succ j => exact shift j ▸ passed j (by omega)
    · next unused => exact ⟨0, Nat.zero_le _, (add_zero t).symm, nofun, fun _ => unused⟩

/-- Tags in use that follow one another are at most as many as the tags in use, up to one round. -/
theorem consecutive_le_length {inUse : List Tag} {t : Tag} {k : Nat} (hk : k ≤ 64)
    (h : ∀ j < k, t + Fin.ofNat 64 j ∈ inUse) : k ≤ inUse.length := by
  have distinct : ((List.range k).map fun j => t + Fin.ofNat 64 j).Nodup := by
    refine List.Nodup.map_on (fun i hi j hj hij => ?_) List.nodup_range
    rw [List.mem_range] at hi hj
    have same := congrArg Fin.val (add_left_cancel hij)
    simp only [Fin.val_ofNat] at same
    omega
  have used : ((List.range k).map fun j => t + Fin.ofNat 64 j) ⊆ inUse := by
    rintro _ hx
    obtain ⟨j, hj, rfl⟩ := List.mem_map.1 hx
    exact h j (List.mem_range.1 hj)
  simpa using (distinct.subperm used).length_le

theorem mem_tagsInUse {s : State} {L : Link} {t : Tag} :
    t ∈ s.tagsInUse L ↔ ∃ d ∈ (s.sch L).outstanding, (s.desc d).tag = some t := List.mem_filterMap

theorem length_tagsInUse_le (s : State) (L : Link) : (s.tagsInUse L).length ≤ (s.sch L).outstanding.length :=
  List.length_filterMap_le ..

/-- Settles O28: the search passes over tags in use alone, of which there are at most 4, and so it ends before its fuel
does. -/
theorem tagGivenIsTheFirstOneFree : Obligations.TagGivenIsTheFirstOneFree := by
  intro s L few
  obtain ⟨k, hk, found, passed, free⟩ := firstFreeTag_spec (s.tagsInUse L) 63 (s.sch L).nextTag
  have bound : k ≤ 4 := calc
    k ≤ (s.tagsInUse L).length := consecutive_le_length (by omega) passed
    _ ≤ (s.sch L).outstanding.length := length_tagsInUse_le s L
    _ ≤ 4 := few
  exact ⟨k, bound, found, fun d hd ht => free (by omega) (mem_tagsInUse.2 ⟨d, hd, ht⟩),
    fun j hj => mem_tagsInUse.1 (passed j hj)⟩

/-! ### Expiries (R156, R157) -/

theorem finishFailed_ended {L : Link} {d : DescNo} {r : FailReason} (s : State) (ports : Table LinkPort 4) :
    Ended L d (offered (failedNotice L d r s) s.notices) ports s
      (finishFailed L d r { s with ports := ports }) :=
  endOutbound_ended _ _ (by rw [finishFailed, recordNotice_eq_offered]; rfl)

theorem enterResend_resent (L : Link) (d : DescNo) (s : State) : Resent L d s (enterResend L d s) := rfl

/-- Settles O12: the expiry is due, and the attempts begun decide. -/
theorem expiriesOfOutboundMessages : Obligations.ExpiriesOfOutboundMessages := by
  rintro s d _ rfl due
  have wait (h : (s.desc d).state = .awaitAck) :
      exec (.acknowledgementWaitExpiry d) s = .next (expireWait d s) :=
    congrArg Host.Outcome.next (if_pos (by simp [State.waitDue, h, due]))
  have backoff (h : (s.desc d).state = .backoff) :
      exec (.refuseBackoffExpiry d) s = .next (enterResend (s.desc d).link d s) :=
    congrArg Host.Outcome.next (if_pos (by simp [State.waitDue, h, due]))
  refine ⟨fun h below => ⟨_, wait h, ?_⟩, fun h limit => ⟨_, wait h, ?_⟩, fun h => ⟨_, backoff h, rfl⟩⟩
  · rw [expireWait, if_pos below]
    exact enterResend_resent ..
  · rw [expireWait, if_neg limit.not_lt]
    exact finishFailed_ended s s.ports

/-! ### Refusals and frames that match nothing (R154, R155) -/

theorem exec_refuseReceived {s : State} {L : Link} {origin : Byte} {tag : Tag} {reason : RefuseReason}
    (h : (s.port L).handedOver = some (.refuse origin tag reason)) :
    exec (.refuseReceived L) s = .next (takeRefuse L origin tag reason (s.setPort L (taken (s.port L)))) := by
  show Host.Outcome.next (takeHandedRefuse L s) = _
  simp only [takeHandedRefuse, h, clearHandedOver_eq]

theorem exec_ackReceived {s : State} {L : Link} {origin : Byte} {tag : Tag}
    (h : (s.port L).handedOver = some (.ack origin tag)) :
    exec (.ackReceived L) s = .next (takeAck L origin tag (s.setPort L (taken (s.port L)))) := by
  show Host.Outcome.next (takeHandedAck L s) = _
  simp only [takeHandedAck, h, clearHandedOver_eq]

/-- A frame taken from its port and counted as stray. -/
theorem count_stray_taken (L : Link) (s : State) :
    count L .stray (s.setPort L (taken (s.port L))) =
      { s with ports := s.ports.put L (counted .stray (taken (s.port L))) } := by
  rw [count_eq_counted, State.setPort_port_self, State.setPort_setPort]
  rfl

/-- A REFUSE that matches a message: its attempt is ended, or else the frame is counted. -/
theorem takeRefuse_of_matching {s : State} {L : Link} {origin : Byte} {tag : Tag} {d : DescNo} (reason : RefuseReason)
    (h : s.matching L origin tag = some d) :
    takeRefuse L origin tag reason s =
      if (s.desc d).state = .sending ∨ (s.desc d).state = .awaitAck then
        if (s.desc d).attempts < (s.sch L).attemptLimit then enterBackoff L d s
        else finishFailed L d (refusedReason reason) s
      else count L .stray s := by
  rw [takeRefuse, h]

/-- Settles O25: the message that the frame matches, its state and its attempts decide. -/
theorem refuseEndsTheAttemptAndStraysAreCounted : Obligations.RefuseEndsTheAttemptAndStraysAreCounted := by
  intro s L origin tag reason
  let u := s.setPort L (taken (s.port L))
  have found {d : DescNo} (h : Matches L origin tag d s) : u.matching L origin tag = some d :=
    matching_eq_some_iff.2 h
  have absent (h : MatchesNone L origin tag s) : u.matching L origin tag = none := matching_eq_none.2 h
  refine ⟨fun d got matched attempt => ⟨fun below => ?_, fun limit => ⟨_, exec_refuseReceived got, ?_⟩⟩,
    fun got unmatched => ?_, fun got stray => ?_⟩
  · rw [exec_refuseReceived got, takeRefuse_of_matching reason (found matched), if_pos (by exact attempt),
      if_pos (by exact below)]
    rfl
  · rw [takeRefuse_of_matching reason (found matched), if_pos (by exact attempt), if_neg (by exact limit.not_lt)]
    have ended := finishFailed_ended (L := L) (d := d) (r := refusedReason reason) s (s.ports.put L (taken (s.port L)))
    cases reason <;> exact ended
  · rw [exec_ackReceived got, takeAck, absent unmatched]
    exact congrArg Host.Outcome.next (count_stray_taken L s)
  · rw [exec_refuseReceived got, ← count_stray_taken]
    obtain unmatched | ⟨d, matched, waits⟩ := stray
    · rw [takeRefuse, absent unmatched]
    · have ended : ¬ ((u.desc d).state = .sending ∨ (u.desc d).state = .awaitAck) := by
        show ¬ ((s.desc d).state = .sending ∨ (s.desc d).state = .awaitAck)
        obtain waits | waits := waits <;> simp [waits]
      rw [takeRefuse_of_matching reason (found matched), if_neg ended]

/-! ### OUT_WITHDRAW (R161) -/

theorem withReference_eq_none {s : State} {L : Link} {reference : Byte} :
    s.withReference L reference = none ↔
      ∀ d ∈ (s.sch L).outstanding ++ (s.sch L).outboundQueue, (s.desc d).reference ≠ reference := by
  simp only [State.withReference, List.find?_eq_none, beq_iff_eq, ne_eq]

/-- The message found is the oldest one with the reference. -/
theorem withReference_of_oldest {s : State} {L : Link} {reference : Byte} {older younger : List DescNo} {d : DescNo}
    (messages : (s.sch L).outstanding ++ (s.sch L).outboundQueue = older ++ d :: younger)
    (hd : (s.desc d).reference = reference) (oldest : ∀ d' ∈ older, (s.desc d').reference ≠ reference) :
    s.withReference L reference = some d := by
  rw [State.withReference, List.find?_eq_some_iff_append]
  exact ⟨by simpa using hd, older, younger, messages, by simpa using oldest⟩

/-- Settles O46: the link that P0 names and the oldest message with the reference decide. -/
theorem outWithdrawFreesTheOldestMatch : Obligations.OutWithdrawFreesTheOldestMatch := by
  intro s operational
  have answer {t : State} {o : CommandOutcome} (h : outWithdrawBody s = (t, o)) :
      exec .outWithdraw s = .next (recordOutcome 0x28 o t) := by
    show Host.Outcome.next (issueCommand 0x28 outWithdrawBody s) = _
    rw [issueCommand_operational operational, h]
  refine ⟨fun large => answer ?_, fun L hL => ?_⟩
  · simp only [outWithdrawBody, linkParameter_eq_none.2 large]
  · have named := linkParameter_eq_some.2 hL
    refine ⟨fun absent => answer ?_, fun older d younger messages hd oldest => ?_⟩
    · simp only [outWithdrawBody, named, withReference_eq_none.2 absent]
    · have found := withReference_of_oldest messages hd oldest
      refine ⟨fun sending => answer ?_, fun idle => ⟨_, endOutbound L d s, answer ?_, rfl, ?_⟩⟩
      · simp only [outWithdrawBody, named, found, if_pos sending]
      · simp only [outWithdrawBody, named, found, if_neg idle]
      · exact endOutbound_ended _ _ rfl

end Sys2Proof.Steps
end

section
/-! PROOFS. What keeps the outstanding messages within their limits: the relation `Carries`, of an operation that makes
no message outstanding, and the invariant that the other operations keep (R145, R146, R157). -/

namespace Sys2Proof.Steps

open Sys2Proof.Machine Sys2Proof.Safety Sys2Proof.Statement

/-! ### The relation -/

/-- A message has begun no more attempts than its limit, and fewer while it waits to be sent again (R145, R157). -/
def WithinLimit (limit : Nat) (x : Descriptor) : Prop :=
  x.attempts ≤ limit ∧ (x.state = .backoff ∨ x.state = .resend → x.attempts < limit)

/-- A descriptor that is outstanding afterwards was so before, for the same link and with the same tag, and stays within
its attempt limit. -/
def Carried (limit : Nat) (x y : Descriptor) : Prop :=
  outstandingState y.state = true →
    outstandingState x.state = true ∧ y.link = x.link ∧ y.tag = x.tag ∧ (WithinLimit limit x → WithinLimit limit y)

/-- The limits of a scheduler's messages are kept (R146). -/
def SameLimits (x y : Scheduler) : Prop :=
  y.outstandingLimit = x.outstandingLimit ∧ y.attemptLimit = x.attemptLimit

/-- What an operation does that changes no limit and makes no message outstanding. -/
structure Carries (s t : State) : Prop where
  limits : ∀ L, SameLimits (s.sch L) (t.sch L)
  messages : ∀ d, Carried (s.sch (s.desc d).link).attemptLimit (s.desc d) (t.desc d)

theorem Carried.refl (limit : Nat) (x : Descriptor) : Carried limit x x := fun h => ⟨h, rfl, rfl, id⟩

theorem Carried.of_not_outstanding {limit : Nat} {x y : Descriptor} (h : outstandingState y.state = false) :
    Carried limit x y := fun hy => by simp [h] at hy

/-- A descriptor whose state, link, tag and attempts are kept. -/
theorem Carried.of_same {limit : Nat} {x y : Descriptor} (state : y.state = x.state) (link : y.link = x.link)
    (tag : y.tag = x.tag) (attempts : y.attempts = x.attempts) : Carried limit x y := fun h =>
  ⟨by rwa [← state], link, tag, by rw [WithinLimit, WithinLimit, state, attempts]; exact id⟩

theorem Carries.refl (s : State) : Carries s s := ⟨fun _ => ⟨rfl, rfl⟩, fun _ => .refl _ _⟩

theorem Carries.trans {s t u : State} (h : Carries s t) (k : Carries t u) : Carries s u where
  limits L := ⟨(k.limits L).1.trans (h.limits L).1, (k.limits L).2.trans (h.limits L).2⟩
  messages d hu := by
    obtain ⟨ht, link', tag', within'⟩ := k.messages d hu
    obtain ⟨hs, link, tag, within⟩ := h.messages d ht
    rw [link, (h.limits _).2] at within'
    exact ⟨hs, link'.trans link, tag'.trans tag, within' ∘ within⟩

/-- The same, last change first. -/
theorem Carries.after {s t u : State} (k : Carries t u) (h : Carries s t) : Carries s u := h.trans k

/-! ### Replacing one part of the state -/

/-- A change of neither the descriptors nor the schedulers. -/
theorem carries_of_same {s t : State} (descriptors : t.table.descriptors = s.table.descriptors)
    (sched : t.sched = s.sched) : Carries s t where
  limits L := by rw [State.sch, State.sch, sched]; exact ⟨rfl, rfl⟩
  messages d := by rw [show t.desc d = s.desc d from congrArg (Table.look · d) descriptors]; exact .refl _ _

theorem setSch_carries {L : Link} {y : Scheduler} {s : State} (h : SameLimits (s.sch L) y) :
    Carries s (s.setSch L y) where
  limits M := by
    rw [State.setSch_sch]
    split
    · next hM => rwa [hM]
    · exact ⟨rfl, rfl⟩
  messages _ := .refl _ _

theorem setDesc_carries {d : DescNo} {x : Descriptor} {s : State}
    (h : Carried (s.sch (s.desc d).link).attemptLimit (s.desc d) x) : Carries s (s.setDesc d x) where
  limits _ := ⟨rfl, rfl⟩
  messages i := by
    rw [State.setDesc_desc]
    split
    · next hi => rwa [hi]
    · exact .refl _ _

/-- A descriptor and the scheduler of a link change together. -/
theorem setDesc_setSch_carries {L : Link} {d : DescNo} {x : Descriptor} {y : Scheduler} {s : State}
    (h : Carried (s.sch (s.desc d).link).attemptLimit (s.desc d) x) (limits : SameLimits (s.sch L) y) :
    Carries s ((s.setDesc d x).setSch L y) := (setDesc_carries h).trans (setSch_carries limits)

/-- A change of one descriptor and of parts that are neither descriptors nor schedulers. -/
theorem carries_of_put {d : DescNo} {x : Descriptor} {s t : State}
    (h : Carried (s.sch (s.desc d).link).attemptLimit (s.desc d) x)
    (descriptors : t.table.descriptors = s.table.descriptors.put d x) (sched : t.sched = s.sched) : Carries s t :=
  (setDesc_carries h).trans (carries_of_same descriptors sched)

/-- A descriptor that then is not outstanding. -/
theorem setDesc_carries_of_not_outstanding {x : Descriptor} (h : outstandingState x.state = false) (d : DescNo)
    (s : State) : Carries s (s.setDesc d x) := setDesc_carries (.of_not_outstanding h)

theorem mapAll_carries {f : Descriptor → Descriptor} {s : State} (h : ∀ x limit, Carried limit x (f x)) :
    Carries s { s with table := { s.table with descriptors := s.table.descriptors.mapAll f } } where
  limits _ := ⟨rfl, rfl⟩
  messages d := by
    simp only [State.desc, Table.look_mapAll]
    exact h _ _

/-! ### The invariant -/

/-- The outstanding messages are sound, with the holders and the limits that this rests on (R145, R146). -/
structure OutboundSound (s : State) : Prop where
  holders : HoldersSound s
  limits : ∀ L, (s.sch L).outstandingLimit ≤ 4 ∧ 1 ≤ (s.sch L).attemptLimit
  messages : OutstandingSound s

theorem OutboundSound.withinLimit {s : State} (h : OutboundSound s) {L : Link} {d : DescNo}
    (hd : d ∈ (s.sch L).outstanding) : WithinLimit (s.sch L).attemptLimit (s.desc d) :=
  ⟨h.messages.attempts L d hd, h.messages.below L d hd⟩

/-- Whatever makes no message outstanding keeps the invariant, when it keeps the holders. -/
theorem OutboundSound.of_carries {s t : State} (h : OutboundSound s) (c : Carries s t) (holders : HoldersSound t) :
    OutboundSound t := by
  have before {L : Link} {d : DescNo} (hd : d ∈ (t.sch L).outstanding) :
      d ∈ (s.sch L).outstanding ∧ (t.desc d).tag = (s.desc d).tag ∧
        WithinLimit (t.sch L).attemptLimit (t.desc d) := by
    obtain ⟨ht, hL⟩ := holders.outstanding L d hd
    obtain ⟨hs, link, tag, within⟩ := c.messages d ht
    rw [← link, hL] at within
    have hd : d ∈ (s.sch L).outstanding := (link.symm.trans hL) ▸ h.holders.outstandingHeld d hs
    exact ⟨hd, tag, (c.limits L).2 ▸ within (h.withinLimit hd)⟩
  exact
    { holders := holders
      limits := fun L => by rw [(c.limits L).1, (c.limits L).2]; exact h.limits L
      messages :=
        { count := fun L => calc
            (t.sch L).outstanding.length ≤ (s.sch L).outstanding.length :=
              ((holders.outstandingOnce L).subperm fun _ hd => (before hd).1).length_le
            _ ≤ (s.sch L).outstandingLimit := h.messages.count L
            _ = (t.sch L).outstandingLimit := (c.limits L).1.symm
          tagged := fun L d hd => (before hd).2.1 ▸ h.messages.tagged L d (before hd).1
          tagsDiffer := fun L d d' hd hd' ht => by
            rw [(before hd).2.1, (before hd').2.1] at ht
            exact h.messages.tagsDiffer L d d' (before hd).1 (before hd').1 ht
          attempts := fun L d hd => (before hd).2.2.1
          below := fun L d hd => (before hd).2.2.2 } }

/-- A message gets its tag and becomes outstanding, within the limit of its link (R145, R149). -/
theorem beginQueued_outboundSound {s : State} (h : OutboundSound s) {L : Link} {d : DescNo} {rest : List DescNo}
    (idle : s.sendingOf L = none) (queue : (s.sch L).outboundQueue = d :: rest)
    (room : (s.sch L).outstanding.length < (s.sch L).outstandingLimit) : OutboundSound (beginQueued L d s) := by
  obtain ⟨queued, -⟩ := h.holders.queued L d (by simp [queue])
  let t := beginQueued L d s
  have sch (M : Link) : t.sch M = if M = L then _ else s.sch M := State.setSch_sch ..
  have limits (M : Link) : SameLimits (s.sch M) (t.sch M) := by
    rw [sch]
    split
    · next hM => exact hM ▸ ⟨rfl, rfl⟩
    · exact ⟨rfl, rfl⟩
  have other {M : Link} {i : DescNo} (hi : i ∈ (s.sch M).outstanding) : t.desc i = s.desc i := by
    refine (State.setDesc_desc ..).trans (if_neg ?_)
    rintro rfl
    simpa [queued, outstandingState] using (h.holders.outstanding M i hi).1
  have begun : t.desc d = { s.desc d with
      state := .sending, position := 0, tag := some (s.tagGiven L), attempts := 1 } := State.setDesc_desc_self ..
  have members {M : Link} {i : DescNo} (hi : i ∈ (t.sch M).outstanding) :
      i ∈ (s.sch M).outstanding ∨ M = L ∧ i = d := by
    rw [sch] at hi
    split at hi
    · next hM =>
      subst hM
      exact (List.mem_append.1 hi).imp_right fun hi => ⟨rfl, List.mem_singleton.1 hi⟩
    · exact .inl hi
  have fresh {i : DescNo} (hi : i ∈ (s.sch L).outstanding) : (s.desc i).tag ≠ some (s.tagGiven L) := by
    obtain ⟨_, _, _, unused, _⟩ := tagGivenIsTheFirstOneFree s L (room.le.trans (h.limits L).1)
    exact unused i hi
  exact
    { holders := beginQueued_holdersSound h.holders idle queue
      limits := fun M => by rw [(limits M).1, (limits M).2]; exact h.limits M
      messages :=
        { count := fun M => by
            rw [(limits M).1]
            rw [sch]
            split
            · next hM => subst hM; simpa using room
            · exact h.messages.count M
          tagged := fun M i hi => by
            obtain old | ⟨-, rfl⟩ := members hi
            · rw [other old]; exact h.messages.tagged M i old
            · rw [begun]; exact nofun
          tagsDiffer := fun M i j hi hj ht => by
            obtain old | ⟨rfl, rfl⟩ := members hi <;> obtain old' | ⟨hM, rfl⟩ := members hj
            · rw [other old, other old'] at ht
              exact h.messages.tagsDiffer M i j old old' ht
            · rw [other old, begun] at ht
              exact absurd ht (fresh (hM ▸ old))
            · rw [begun, other old'] at ht
              exact absurd ht.symm (fresh old')
            · rfl
          attempts := fun M i hi => by
            rw [(limits M).2]
            obtain old | ⟨-, rfl⟩ := members hi
            · rw [other old]; exact h.messages.attempts M i old
            · rw [begun]; exact (h.limits M).2
          below := fun M i hi waits => by
            rw [(limits M).2]
            obtain old | ⟨-, rfl⟩ := members hi
            · rw [other old] at waits ⊢; exact h.messages.below M i old waits
            · rw [begun] at waits; simp at waits } }

/-- A device reset leaves no message outstanding (R167). -/
theorem deviceReset_outboundSound (low : Bool) (s : State) : OutboundSound (deviceReset low s) where
  holders := deviceReset_holdersSound low s
  limits L := by simp [Scheduler.reset]
  messages := by constructor <;> simp [Scheduler.reset]

/-! ### Configuration writes (R146) -/

/-- A scheduler with its outstanding set kept and limits that leave room for it. -/
theorem setSch_outboundSound {s : State} (h : OutboundSound s) {L : Link} {y : Scheduler}
    (holders : HoldersSound (s.setSch L y)) (same : y.outstanding = (s.sch L).outstanding)
    (range : y.outstandingLimit ≤ 4 ∧ 1 ≤ y.attemptLimit) (room : (s.sch L).outstanding.length ≤ y.outstandingLimit)
    (within : ∀ d ∈ (s.sch L).outstanding, WithinLimit y.attemptLimit (s.desc d)) : OutboundSound (s.setSch L y) := by
  have sch (M : Link) : (s.setSch L y).sch M = if M = L then y else s.sch M := State.setSch_sch ..
  have members (M : Link) : ((s.setSch L y).sch M).outstanding = (s.sch M).outstanding := by
    rw [sch]
    split
    · next hM => rw [hM, same]
    · rfl
  have bounded {M : Link} {d : DescNo} (hd : d ∈ ((s.setSch L y).sch M).outstanding) :
      WithinLimit ((s.setSch L y).sch M).attemptLimit (s.desc d) := by
    rw [members] at hd
    rw [sch]
    split
    · next hM => subst hM; exact within d hd
    · exact h.withinLimit hd
  exact
    { holders := holders
      limits := fun M => by
        rw [sch]
        split
        · exact range
        · exact h.limits M
      messages :=
        { count := fun M => by
            rw [members, sch]
            split
            · next hM => rwa [hM]
            · exact h.messages.count M
          tagged := fun M d hd => h.messages.tagged M d (members M ▸ hd)
          tagsDiffer := fun M d d' hd hd' => h.messages.tagsDiffer M d d' (members M ▸ hd) (members M ▸ hd')
          attempts := fun M d hd => (bounded hd).1
          below := fun M d hd => (bounded hd).2 } }

/-- An attempt limit that the message allows is one that it stays within. -/
theorem withinLimit_of_attemptsAllow {v : Nat} {x : Descriptor} (hx : outstandingState x.state = true)
    (h : attemptsAllow x.link v x = true) : WithinLimit v x := by
  cases hs : x.state with
  | sending | awaitAck =>
    have most : x.attempts ≤ v := by simpa [attemptsAllow, hs] using h
    exact ⟨most, by simp [hs]⟩
  | backoff | resend =>
    have below : x.attempts < v := by simpa [attemptsAllow, hs] using h
    exact ⟨below.le, fun _ => below⟩
  | free | assembling | ready | service | composing | queued => simp [hs, outstandingState] at hx

/-- A limit is not written below what the outstanding messages of its link use (R146). -/
theorem assign_outboundSound {s : State} (h : OutboundSound s) {x : Setting} {v : Nat}
    (accepted : x.accepts v s = true) : OutboundSound (x.assign v s) := by
  have kept := (assign_keeps x v s).holders h.holders
  simp only [Setting.accepts, Bool.and_eq_true] at accepted
  obtain ⟨⟨range, -⟩, floor⟩ := accepted
  cases x with
  | outstandingLimit =>
    simp only [Setting.inRange, Setting.aboveFloor, decide_eq_true_eq] at range floor
    exact setSch_outboundSound h kept rfl ⟨range.2, (h.limits _).2⟩ floor fun d hd => h.withinLimit hd
  | attemptLimit =>
    simp only [Setting.inRange, Setting.aboveFloor, decide_eq_true_eq, List.all_eq_true] at range floor
    refine setSch_outboundSound h kept rfl ⟨(h.limits _).1, range.1⟩ (h.messages.count _) fun d hd => ?_
    obtain ⟨hs, hL⟩ := h.holders.outstanding _ d hd
    exact withinLimit_of_attemptsAllow hs (hL ▸ floor d (List.mem_finRange d))
  | ackWait | refuseBackoff | reportDone => exact h.of_carries (setSch_carries ⟨rfl, rfl⟩) kept
  | prescale | ageStep | composeReserve | noticeWeight | threshold | attentionEnable | stationAddress | acceptBroadcast
  | lineRate | contextQuota | reassemblyLifetime | linkWeight => exact h.of_carries (carries_of_same rfl rfl) kept

end Sys2Proof.Steps
end

section
/-! PROOFS. The operations that make no message outstanding: the shared operations, the reassembly unit, the compose
unit, the service context, and the outbound scheduler but for a frame start. -/

namespace Sys2Proof.Steps

open Sys2Proof.Machine Sys2Proof.Safety Sys2Proof.Statement

/-! ### Shared operations -/

theorem setPort_carries (L : Link) (p : LinkPort) (s : State) : Carries s (s.setPort L p) := carries_of_same rfl rfl

theorem time_carries (x : TimeBase) (s : State) : Carries s { s with time := x } := carries_of_same rfl rfl

theorem recordNotice_carries (n : Notice) (s : State) : Carries s (recordNotice n s) := by
  rw [recordNotice_eq]
  exact carries_of_same rfl rfl

theorem count_carries (L : Link) (c : CounterName) (s : State) : Carries s (count L c s) := setPort_carries L _ s

theorem joinRequest_carries (L : Link) (r : Request) (s : State) : Carries s (joinRequest L r s) := by
  rw [joinRequest_eq]
  exact setPort_carries L _ s

theorem clearHandedOver_carries (L : Link) (s : State) : Carries s (clearHandedOver L s) := setPort_carries L _ s

theorem freeMessage_carries (d : DescNo) (s : State) : Carries s (freeMessage d s) :=
  (setDesc_carries_of_not_outstanding rfl d _).after (carries_of_same rfl rfl)

theorem freeMessages_carry (ds : List DescNo) (s : State) : Carries s (freeMessages ds s) := by
  induction ds generalizing s with
  | nil => exact .refl s
  | cons d ds ih => exact (freeMessage_carries d s).trans (ih _)

theorem abandonContext_carries (e : EntryNo) (s : State) : Carries s (abandonContext e s) := by
  cases hc : s.context e with
  | none => rw [abandonContext_of_none hc]; exact .refl s
  | some c =>
    rw [abandonContext_eq hc]
    exact ((carries_of_same rfl rfl : Carries s (returnBlocks (slotBlocks c) s)).trans
      (setDesc_carries_of_not_outstanding rfl c.descriptor _)).trans (carries_of_same rfl rfl)

theorem abandonContexts_carry (es : List EntryNo) (s : State) : Carries s (abandonContexts es s) := by
  induction es generalizing s with
  | nil => exact .refl s
  | cons e es ih => exact (abandonContext_carries e s).trans (ih _)

/-! ### The reassembly unit -/

theorem answerFragment_carries (L : Link) (f : Fragment) (k : RequestKind) (s : State) :
    Carries s (answerFragment L f k s) := by
  rw [answerFragment_eq_replied]
  exact setPort_carries L _ s

theorem dropNoContext_carries (L : Link) (f : Fragment) (s : State) : Carries s (dropNoContext L f s) := by
  rw [dropNoContext_eq]
  exact setPort_carries L _ s

theorem dropNoBlock_carries (L : Link) (f : Fragment) (s : State) : Carries s (dropNoBlock L f s) := by
  rw [dropNoBlock_eq]
  exact setPort_carries L _ s

theorem completeContext_carries (e : EntryNo) (c : Context) (s : State) : Carries s (completeContext e c s) := by
  have ready {t : State} (descriptors : t.table.descriptors =
      s.table.descriptors.put c.descriptor (completedDescriptor c s)) (sched : t.sched = s.sched) : Carries s t :=
    carries_of_put (.of_not_outstanding rfl) descriptors sched
  simp only [completeContext]
  split
  · exact ready rfl rfl
  · exact (joinRequest_carries ..).after (ready rfl rfl)

theorem storeFragment_carries (e : EntryNo) (c : Context) (f : Fragment) (b : Option BlockNo) (s : State) :
    Carries s (storeFragment e c f b s) := by
  rw [storeFragment_eq]
  dsimp only
  split
  · exact (completeContext_carries ..).after (carries_of_same rfl rfl)
  · exact carries_of_same rfl rfl

theorem reassemblyClaim_carries {L : Link} {s t : State} {b : BlockNo} (h : reassemblyClaim L s = some (b, t)) :
    Carries s t := by
  obtain ⟨_, _, rfl⟩ := grantBlock_eq_some.1 (reassemblyClaim_eq_some.1 h).2.2
  exact carries_of_same rfl rfl

theorem claimDescriptor_carries {x : Descriptor} {s t : State} {d : DescNo} (h : claimDescriptor x s = some (d, t))
    (hx : outstandingState x.state = false) : Carries s t := by
  obtain ⟨-, rfl⟩ := claimDescriptor_eq_some.1 h
  exact setDesc_carries_of_not_outstanding hx d s

theorem createContext_carries (L : Link) (f : Fragment) (s : State) : Carries s (createContext L f s) := by
  unfold createContext
  split
  · exact dropNoContext_carries L f s
  · split
    · split
      · exact dropNoContext_carries L f s
      · next hd =>
        refine (claimDescriptor_carries hd rfl).trans ?_
        split
        · exact storeFragment_carries ..
        · split
          · exact (dropNoBlock_carries L f _).after (setDesc_carries_of_not_outstanding rfl _ _)
          · next hb => exact (reassemblyClaim_carries hb).trans (storeFragment_carries ..)
    · exact dropNoContext_carries L f s

theorem continueContext_carries (L : Link) (e : EntryNo) (c : Context) (f : Fragment) (s : State) :
    Carries s (continueContext L e c f s) := by
  unfold continueContext
  split
  · exact count_carries L _ s
  · split
    · exact (abandonContext_carries e s).trans (recordNotice_carries _ _)
    · split
      · exact storeFragment_carries ..
      · split
        · exact dropNoBlock_carries L f s
        · next hb => exact (reassemblyClaim_carries hb).trans (storeFragment_carries ..)

theorem takeFragment_carries (L : Link) (f : Fragment) (s : State) : Carries s (takeFragment L f s) := by
  unfold takeFragment
  split
  · exact (count_carries L _ s).trans (answerFragment_carries L f _ _)
  · split
    · exact createContext_carries L f s
    · split
      · exact continueContext_carries ..
      · exact .refl s

theorem takeHandedFragment_carries (L : Link) (s : State) : Carries s (takeHandedFragment L s) := by
  unfold takeHandedFragment
  split
  · split
    · exact (clearHandedOver_carries L s).trans (takeFragment_carries L _ _)
    · exact .refl s
  · exact .refl s

theorem lifetimeExpiry_carries (e : EntryNo) (s : State) : Carries s (lifetimeExpiry e s) := by
  obtain h | ⟨c, -, -, h⟩ := lifetimeExpiry_eq e s <;> rw [h]
  · exact .refl s
  · exact (abandonContext_carries e s).trans (recordNotice_carries _ _)

/-! ### The outbound scheduler -/

theorem endOutbound_carries (L : Link) (d : DescNo) (s : State) : Carries s (endOutbound L d s) :=
  (freeMessage_carries d _).after (setSch_carries ⟨rfl, rfl⟩)

theorem finishDone_carries (L : Link) (d : DescNo) (s : State) : Carries s (finishDone L d s) := by
  rw [finishDone_eq]
  exact (endOutbound_carries L d _).after (carries_of_same rfl rfl)

theorem finishFailed_carries (L : Link) (d : DescNo) (r : FailReason) (s : State) : Carries s (finishFailed L d r s) :=
  (recordNotice_carries _ s).trans (endOutbound_carries L d _)

theorem takeHandedAck_carries (L : Link) (s : State) : Carries s (takeHandedAck L s) := by
  unfold takeHandedAck takeAck
  split
  · refine (clearHandedOver_carries L s).trans ?_
    split
    · exact finishDone_carries L _ _
    · exact count_carries L _ _
  · exact .refl s

/-- An outstanding message of link `L` that may be sent again: it has begun fewer attempts than its limit. -/
structure Resendable (L : Link) (d : DescNo) (s : State) : Prop where
  outstanding : outstandingState (s.desc d).state = true
  link : (s.desc d).link = L
  below : (s.desc d).attempts < (s.sch L).attemptLimit

/-- A resendable message changes its state, its position or its deadline, and its scheduler's lists change with it. -/
theorem Resendable.carries {L : Link} {d : DescNo} {s : State} (h : Resendable L d s) {x : Descriptor} {y : Scheduler}
    (link : x.link = (s.desc d).link) (tag : x.tag = (s.desc d).tag) (attempts : x.attempts = (s.desc d).attempts)
    (limits : SameLimits (s.sch L) y) : Carries s ((s.setDesc d x).setSch L y) := by
  refine setDesc_setSch_carries (fun _ => ⟨h.outstanding, link, tag, fun _ => ?_⟩) limits
  have below := h.below
  rw [← attempts, ← h.link] at below
  exact ⟨below.le, fun _ => below⟩

theorem enterBackoff_carries {L : Link} {d : DescNo} {s : State} (h : Resendable L d s) :
    Carries s (enterBackoff L d s) := h.carries rfl rfl rfl ⟨rfl, rfl⟩

theorem enterResend_carries {L : Link} {d : DescNo} {s : State} (h : Resendable L d s) :
    Carries s (enterResend L d s) := h.carries rfl rfl rfl ⟨rfl, rfl⟩

/-- An outstanding message below its attempt limit is resendable. -/
theorem resendable_of_outstanding {L : Link} {d : DescNo} {s : State} (h : HoldersSound s)
    (hd : d ∈ (s.sch L).outstanding) (below : (s.desc d).attempts < (s.sch L).attemptLimit) : Resendable L d s :=
  ⟨(h.outstanding L d hd).1, (h.outstanding L d hd).2, below⟩

theorem takeHandedRefuse_carries {s : State} (h : HoldersSound s) (L : Link) : Carries s (takeHandedRefuse L s) := by
  unfold takeHandedRefuse takeRefuse
  split
  · refine (clearHandedOver_carries L s).trans ?_
    have held := (clearHandedOver_keeps L s).holders h
    split
    · next hm =>
      split
      · split
        · next below => exact enterBackoff_carries (resendable_of_outstanding held (matching_eq_some hm).1 below)
        · exact finishFailed_carries ..
      · exact count_carries ..
    · exact count_carries ..
  · exact .refl s

theorem takeHandedOver_carries {s : State} (h : HoldersSound s) (L : Link) : Carries s (takeHandedOver L s) :=
  ((takeHandedFragment_carries L s).trans (takeHandedAck_carries L _)).trans
    (takeHandedRefuse_carries (((takeHandedFragment_keeps L s).trans (takeHandedAck_keeps L _)).holders h) L)

theorem ackWaitExpiry_carries (d : DescNo) (s : State) : Carries s (ackWaitExpiry d s) := by
  obtain h | ⟨waits, -, h⟩ := ackWaitExpiry_eq d s <;> rw [h]
  · exact .refl s
  · simp only [expireWait]
    split
    · next below => exact enterResend_carries ⟨by simp [waits, outstandingState], rfl, below⟩
    · exact finishFailed_carries ..

/-- A message that waits out a backoff is below its limit (R157). -/
theorem backoffExpiry_carries (d : DescNo) (s : State) : Carries s (backoffExpiry d s) := by
  obtain h | ⟨waits, -, h⟩ := backoffExpiry_eq d s <;> rw [h]
  · exact .refl s
  · refine setDesc_setSch_carries (fun _ => ⟨by simp [waits, outstandingState], rfl, rfl, fun within => ?_⟩) ⟨rfl, rfl⟩
    exact ⟨within.1, fun _ => within.2 (.inl waits)⟩

theorem takeExpiries_carry (s : State) : Carries s (takeExpiries s) :=
  takeExpiries_induction (P := Carries s) (.refl s) (fun e _ h => h.trans (lifetimeExpiry_carries e _))
    (fun d _ h => h.trans (ackWaitExpiry_carries d _)) fun d _ h => h.trans (backoffExpiry_carries d _)

/-- A message sent again begins one more attempt, which its limit allows (R148). -/
theorem beginResend_carries {L : Link} {d : DescNo} {s : State} (h : (s.desc d).state = .resend) :
    Carries s (beginResend L d s) :=
  setDesc_setSch_carries
    (fun _ => ⟨by simp [h, outstandingState], rfl, rfl, fun within => ⟨within.2 (.inr h), by simp⟩⟩) ⟨rfl, rfl⟩

theorem setLine_carries (L : Link) (d : DescNo) (n : Nat) (s : State) : Carries s (setLine L d n s) :=
  setSch_carries ⟨rfl, rfl⟩

theorem reportFrameEnd_carries (L : Link) (s : State) : Carries s (reportFrameEnd L s) := by
  have clear (t : State) : Carries t (clearLine L t) := setSch_carries ⟨rfl, rfl⟩
  have sent {d : DescNo} (n : Nat) (hs : (s.desc d).state = .sending) : Carries s (fragmentSent L d n s) := by
    unfold fragmentSent
    split
    · exact setDesc_carries (.of_same rfl rfl rfl rfl)
    · split
      · exact finishDone_carries L d s
      · exact setDesc_carries fun _ => ⟨by simp [hs, outstandingState], rfl, rfl, fun within => ⟨within.1, nofun⟩⟩
  unfold reportFrameEnd
  split
  · refine .trans ?_ (clear _)
    split
    · next hs => exact sent _ hs
    · exact .refl s
  · exact clear s

theorem stopSending_carries {s : State} (h : HoldersSound s) (L : Link) : Carries s (stopSending L s) := by
  unfold stopSending
  split
  · next hd =>
    split
    · next below => exact enterResend_carries (resendable_of_outstanding h (sendingOf_eq_some hd).1 below)
    · exact finishFailed_carries ..
  · exact .refl s

theorem suspendDeadlines_carries (L : Link) (s : State) : Carries s (suspendDeadlines L s) := by
  refine mapAll_carries fun x limit => ?_
  unfold suspendedDescriptor
  split
  · exact .of_same rfl rfl rfl rfl
  · exact .refl _ x

theorem rearmDeadlines_carries (L : Link) (s : State) : Carries s (rearmDeadlines L s) := by
  refine mapAll_carries fun x limit => ?_
  unfold rearmedDescriptor
  split
  · exact .of_same rfl rfl rfl rfl
  · split
    · exact .of_same rfl rfl rfl rfl
    · exact .refl _ x

/-! ### The compose unit and the service context -/

theorem outWithdrawBody_carries (s : State) : Carries s (outWithdrawBody s).1 := by
  unfold outWithdrawBody
  split
  · exact .refl s
  · split
    · exact .refl s
    · split
      · exact .refl s
      · exact endOutbound_carries ..

theorem composeOpenBody_carries (s : State) : Carries s (composeOpenBody s).1 := by
  unfold composeOpenBody
  split
  · exact .refl s
  · split
    · exact .refl s
    · split
      · exact .refl s
      · split
        · exact .refl s
        · next hd => exact (claimDescriptor_carries hd rfl).trans (carries_of_same rfl rfl)

theorem composeSubmitBody_carries (s : State) : Carries s (composeSubmitBody s).1 := by
  unfold composeSubmitBody
  split
  · exact .refl s
  · next d _ =>
    let L := (s.desc d).link
    have queued : Carries s ((s.setDesc d
        { s.desc d with state := .queued, fragmentCount := some (fragmentCountOf (s.desc d).length) }).setSch L
        { s.sch L with outboundQueue := (s.sch L).outboundQueue ++ [d] }) :=
      setDesc_setSch_carries (.of_not_outstanding rfl) ⟨rfl, rfl⟩
    exact queued.trans (carries_of_same rfl rfl)

theorem composeCancelBody_carries (s : State) : Carries s (composeCancelBody s).1 := by
  unfold composeCancelBody
  split
  · exact .refl s
  · exact (freeMessage_carries _ s).trans (carries_of_same rfl rfl)

theorem composeBlock_carries {d : DescNo} {s t : State} {b : BlockNo} (h : composeBlock d s = some (b, t)) :
    Carries s t := by
  unfold composeBlock at h
  split at h
  · obtain ⟨⟨b', u⟩, hu, hb⟩ := Option.map_eq_some_iff.1 h
    obtain ⟨rest, -, rfl⟩ := grantBlock_eq_some.1 hu
    cases hb
    exact carries_of_put (d := d) (x := { s.desc d with chain := (s.desc d).chain ++ [b] }) (.of_same rfl rfl rfl rfl)
      rfl rfl
  · obtain ⟨b', -, hb⟩ := Option.map_eq_some_iff.1 h
    cases hb
    exact .refl s

theorem acceptByte_carries (d : DescNo) (b : BlockNo) (v : Byte) (s : State) : Carries s (acceptByte d b v s) :=
  carries_of_put (d := d) (x := { s.desc d with length := (s.desc d).length + 1 }) (.of_same rfl rfl rfl rfl) rfl rfl

theorem writeComposePort_carries (v : Byte) (s : State) : Carries s (writeComposePort v s) := by
  unfold writeComposePort writeComposeByte
  split
  · exact .refl s
  · split
    · exact carries_of_same rfl rfl
    · split
      · exact carries_of_same rfl rfl
      · split
        · next hb => exact (composeBlock_carries hb).trans (acceptByte_carries ..)
        · exact carries_of_same rfl rfl

theorem takeItem_carries (w : Source × Nat) (s : State) : Carries s (takeItem w s) := by
  unfold takeItem
  split
  · split
    · exact ((carries_of_same rfl rfl).trans (setDesc_carries_of_not_outstanding rfl _ _)).trans
        (carries_of_same rfl rfl)
    · exact .refl s
  · split
    · exact carries_of_same rfl rfl
    · exact .refl s

theorem takeBody_carries (s : State) : Carries s (takeBody s).1 := by
  unfold takeBody
  split
  · exact .refl s
  · split
    · exact .refl s
    · split
      · exact takeItem_carries ..
      · exact .refl s

theorem takeAnyBody_carries (s : State) : Carries s (takeAnyBody s).1 := by
  unfold takeAnyBody
  split
  · exact .refl s
  · split
    · exact .refl s
    · exact takeItem_carries ..

theorem releaseBody_carries (s : State) : Carries s (releaseBody s).1 := by
  unfold releaseBody
  split
  · exact .refl s
  · exact (freeMessage_carries _ s).trans (carries_of_same rfl rfl)
  · exact carries_of_same rfl rfl

theorem requeueBody_carries (s : State) : Carries s (requeueBody s).1 := by
  unfold requeueBody
  split
  · exact .refl s
  · exact (setDesc_carries_of_not_outstanding rfl _ s).trans (carries_of_same rfl rfl)
  · split
    · exact carries_of_same rfl rfl
    · exact .refl s

end Sys2Proof.Steps
end

section
/-! PROOFS. The links, the commands, the register window and every step keep the outstanding messages within their
limits (R145, R146, R157). -/

namespace Sys2Proof.Steps

open Sys2Proof.Machine Sys2Proof.Safety Sys2Proof.Statement

/-! ### Transmitters -/

theorem room_of_offer {s : State} {L : Link} {d : DescNo} (h : s.offer L = some (.queued d)) :
    (s.sch L).outstanding.length < (s.sch L).outstandingLimit := by
  by_contra full
  unfold State.offer at h
  split at h
  · cases h
  · split at h
    · cases h
    · split at h
      · rw [if_neg full] at h; cases h
      · cases h

/-- The offer that is taken: a message already outstanding, or one that the outstanding limit has room for (R147). -/
theorem takeOffer_outboundSound {s : State} (h : OutboundSound s) {L : Link} {o : Offer} (ho : s.offer L = some o) :
    OutboundSound (takeOffer L o s) := by
  have kept := (takeOffer_keeps ho).holders h.holders
  obtain ⟨d, rfl, -⟩ | ⟨idle, ⟨d, rest, rfl, order⟩ | ⟨d, rest, rfl, queue⟩⟩ := offer_cases ho
  · exact h.of_carries (setLine_carries ..) kept
  · have waits : (s.desc d).state = .resend := (h.holders.resend L d (by simp [order])).1
    exact h.of_carries ((beginResend_carries waits).trans (setLine_carries ..)) kept
  · exact (beginQueued_outboundSound h idle queue (room_of_offer ho)).of_carries (setLine_carries ..) kept

theorem takeFrameStart_outboundSound {s : State} (h : OutboundSound s) (L : Link) :
    OutboundSound (takeFrameStart L s) := by
  have kept := (takeFrameStart_keeps L s).holders h.holders
  revert kept
  unfold takeFrameStart startFrame
  split
  · split
    · exact h.of_carries (carries_of_same rfl rfl)
    · split
      · next ho => exact (takeOffer_outboundSound h ho).of_carries (setPort_carries ..)
      · exact fun _ => h
  · exact fun _ => h

theorem enterOff_carries {s : State} (h : HoldersSound s) (L : Link) : Carries s (enterOff L s) := by
  have off (t : State) : Keeps t (t.setPort L { t.port L with state := .off, controlQueue := [] }) :=
    setPort_keeps nofun
  have held := ((abandonContexts_keep (s.entriesOfLink L) s).trans (off _)).holders h
  exact ((((abandonContexts_carry _ s).trans (setPort_carries ..)).trans (stopSending_carries held L)).trans
    (suspendDeadlines_carries L _)).trans (recordNotice_carries _ _)

theorem endFrame_carries {s : State} (h : HoldersSound s) (L : Link) : Carries s (endFrame L s) := by
  have reported : Carries s (reportFrameEnd L (enterGap L s)) := (reportFrameEnd_carries L _).after (setPort_carries ..)
  have held := ((reportFrameEnd_keeps L _).after (setPort_keeps_of_state rfl : Keeps s (enterGap L s))).holders h
  simp only [endFrame]
  split
  · exact reported.trans (enterOff_carries held L)
  · exact reported

theorem transmitterPeriod_outboundSound {s : State} (h : OutboundSound s) (L : Link) :
    OutboundSound (transmitterPeriod L s) := by
  have kept := (transmitterPeriod_keeps L s).holders h.holders
  revert kept
  unfold transmitterPeriod
  split
  · unfold sendPeriod
    split
    · exact h.of_carries (setPort_carries ..)
    · exact h.of_carries (endFrame_carries h.holders L)
  · exact h.of_carries (setPort_carries ..)
  · exact fun _ => takeFrameStart_outboundSound h L

/-! ### Receivers -/

theorem carries_of_receiverOnly {L : Link} {s t : State} (h : ReceiverOnly L s t) : Carries s t := by
  obtain ⟨q, rfl, -⟩ := h
  exact setPort_carries ..

theorem finishFrame_carries {s : State} (h : HoldersSound s) (L : Link) : Carries s (finishFrame L s) := by
  unfold finishFrame
  split
  · exact (takeHandedOver_carries h L).trans (carries_of_receiverOnly (completeFrame_receiverOnly L _))
  · exact .refl s

theorem concludeFrame_carries {s : State} (h : HoldersSound s) (L : Link) : Carries s (concludeFrame L s) :=
  (finishFrame_carries h L).trans (carries_of_receiverOnly (discardOversized_receiverOnly L _))

theorem receiveCharacter_carries {s : State} (h : HoldersSound s) (L : Link) (b : Byte) :
    Carries s (receiveCharacter L b s) :=
  (concludeFrame_carries h L).trans (carries_of_receiverOnly (hearCharacter_receiverOnly L b _))

theorem receiveError_carries {s : State} (h : HoldersSound s) (L : Link) : Carries s (receiveError L s) :=
  (concludeFrame_carries h L).trans (carries_of_receiverOnly (hearError_receiverOnly L _))

theorem takeLineEvent_carries {s : State} (h : HoldersSound s) (L : Link) (e : Option LineEvent) :
    Carries s (takeLineEvent L s e) := by
  unfold takeLineEvent
  split
  · exact receiveCharacter_carries h L _
  · exact receiveError_carries h L
  · exact .refl s

theorem receiverPeriod_carries {s : State} (h : HoldersSound s) (L : Link) : Carries s (receiverPeriod L s) := by
  unfold receiverPeriod
  split
  · exact setPort_carries ..
  · have finished {t : State} (k : Keeps s t) (c : Carries s t) : Carries s (concludeFrame L t) :=
      c.trans (concludeFrame_carries (k.holders h) L)
    have heard (p : LinkPort) (hp : p.state = (s.port L).state) (e : Option LineEvent) :
        Carries s (takeLineEvent L (s.setPort L p) e) :=
      (takeLineEvent_carries ((setPort_keeps_of_state hp).holders h) L e).after (setPort_carries ..)
    simp only [sampleReceiver]
    split
    · exact finished ((keeps_of_receiverOnly (countIdle_receiverOnly L _)).after (setPort_keeps_of_state rfl))
        ((carries_of_receiverOnly (countIdle_receiverOnly L _)).after (setPort_carries ..))
    · refine finished ((takeLineEvent_keeps L _ _).after (setPort_keeps_of_state rfl)) (heard _ ?_ _)
      rfl

theorem handOffPeriod_carries {s : State} (h : HoldersSound s) (L : Link) : Carries s (handOffPeriod L s) := by
  unfold handOffPeriod
  split
  · exact .refl s
  · split
    · exact setPort_carries ..
    · exact takeHandedOver_carries h L

theorem linkPeriod_outboundSound {s : State} (h : OutboundSound s) (L : Link) : OutboundSound (linkPeriod L s) := by
  have sent := transmitterPeriod_outboundSound h L
  have handed := sent.of_carries (handOffPeriod_carries sent.holders L) ((handOffPeriod_keeps L _).holders sent.holders)
  exact handed.of_carries (receiverPeriod_carries handed.holders L) ((receiverPeriod_keeps L _).holders handed.holders)

theorem linkPeriods_outboundSound {s : State} (h : OutboundSound s) : OutboundSound (linkPeriods s) :=
  linkPeriod_outboundSound (linkPeriod_outboundSound (linkPeriod_outboundSound (linkPeriod_outboundSound h 0) 1) 2) 3

/-! ### The time base and the rebuild -/

theorem agePulsePeriod_carries (s : State) : Carries s (agePulsePeriod s) := by
  have aged (x : Descriptor) (limit : Nat) : Carried limit x (agedDescriptor x) := by
    unfold agedDescriptor
    split
    · exact .of_same rfl rfl rfl rfl
    · exact .refl _ x
  unfold agePulsePeriod
  split
  · exact (mapAll_carries aged).trans (time_carries _ _)
  · exact .refl s

theorem takeTick_carries (s : State) : Carries s (takeTick s) := by
  unfold takeTick
  split
  · exact .refl s
  · exact (takeExpiries_carry s).trans (time_carries _ _)

theorem countPeriod_carries (s : State) : Carries s (countPeriod s) := by
  unfold countPeriod
  split
  · exact time_carries _ s
  · exact takeTick_carries s

theorem placeBlock_carries (s : State) : Carries s (placeBlock s) := by
  unfold placeBlock
  split
  · split <;> exact carries_of_same rfl rfl
  · exact .refl s

/-! ### Commands of the command register -/

theorem linkStartBody_carries (s : State) : Carries s (linkStartBody s).1 := by
  unfold linkStartBody
  split
  · exact .refl s
  · split
    · split
      · exact .refl s
      · exact (rearmDeadlines_carries _ _).after (setPort_carries ..)
    all_goals exact .refl s

theorem stopLink_carries {s : State} (h : HoldersSound s) (L : Link) : Carries s (stopLink L s) := by
  have disabled : Keeps s (disableReceiver L s) := setPort_keeps_of_state rfl
  have stopping (t : State) : Keeps t (t.setPort L { t.port L with state := .stopping }) := setPort_keeps nofun
  simp only [stopLink]
  split
  · exact carries_of_same rfl rfl
  · exact (enterOff_carries ((disabled.trans (stopping _)).holders h) L).after (carries_of_same rfl rfl)

theorem linkStopBody_carries {s : State} (h : HoldersSound s) : Carries s (linkStopBody s).1 := by
  unfold linkStopBody
  split
  · exact .refl s
  · split
    · exact stopLink_carries h _
    all_goals exact .refl s

/-- LINK RESET clears messages and adds none. -/
theorem linkResetBody_carries (s : State) : Carries s (linkResetBody s).1 := by
  unfold linkResetBody
  split
  · exact .refl s
  · next L _ =>
    have abandoned : Carries s ((abandonContexts (s.entriesOfLink L) s).setHistory L []) :=
      (abandonContexts_carry _ s).trans (carries_of_same rfl rfl)
    have served (t : State) : Carries t ((freeMessages (s.ready L) t).setReady L []) :=
      (freeMessages_carry _ t).trans (carries_of_same rfl rfl)
    have freed (t : State) : Carries t
        (freeMessages (s.outstandingAscending L) (freeMessages (s.sch L).outboundQueue t)) :=
      (freeMessages_carry _ t).trans (freeMessages_carry _ _)
    have emptied (t : State) : Carries t (t.setSch L (emptiedScheduler (t.sch L))) := setSch_carries ⟨rfl, rfl⟩
    exact ((((abandoned.trans (served _)).trans (freed _)).trans (emptied _)).trans (setPort_carries ..)).trans
      (recordNotice_carries _ _)

theorem countersClearBody_carries (s : State) : Carries s (countersClearBody s).1 := by
  unfold countersClearBody
  split
  · exact .refl s
  · exact setPort_carries ..

/-! ### Reads and writes of the window -/

theorem hostWrite_carries {effect : State → State} {s : State} (h : Carries s (effect s)) :
    Carries s (hostWrite effect s) := by
  unfold hostWrite
  split
  · exact .refl s
  · exact h

theorem issueCommand_carries {code : Byte} {body : State → State × CommandOutcome} {s : State}
    (h : Carries s (body s).1) : Carries s (issueCommand code body s) := by
  refine hostWrite_carries ?_
  split
  · exact carries_of_same rfl rfl
  · exact h.trans (carries_of_same rfl rfl)

/-- A write of the command register resets the part, or makes no message outstanding. -/
theorem writeCommandRegister_cases {s : State} (h : HoldersSound s) (code : Byte) :
    writeCommandRegister code s = deviceReset false s ∨ Carries s (writeCommandRegister code s) := by
  unfold writeCommandRegister
  split
  · exact .inr (issueCommand_carries (linkStartBody_carries s))
  · exact .inr (issueCommand_carries (linkStopBody_carries h))
  · exact .inr (issueCommand_carries (linkResetBody_carries s))
  · exact .inr (issueCommand_carries (takeBody_carries s))
  · exact .inr (issueCommand_carries (takeAnyBody_carries s))
  · exact .inr (issueCommand_carries (releaseBody_carries s))
  · exact .inr (issueCommand_carries (requeueBody_carries s))
  · exact .inr (issueCommand_carries (composeOpenBody_carries s))
  · exact .inr (issueCommand_carries (composeSubmitBody_carries s))
  · exact .inr (issueCommand_carries (composeCancelBody_carries s))
  · exact .inr (issueCommand_carries (outWithdrawBody_carries s))
  · exact .inr (issueCommand_carries (carries_of_same rfl rfl))
  · exact .inr (issueCommand_carries (countersClearBody_carries s))
  · exact .inr (issueCommand_carries (carries_of_same rfl rfl))
  · unfold commandDeviceReset hostWrite
    split
    · exact .inr (.refl s)
    · dsimp only
      split
      · exact .inr (carries_of_same rfl rfl)
      · exact .inl rfl
  · exact .inr (issueCommand_carries (.refl s))

theorem writeCommandRegister_outboundSound {s : State} (h : OutboundSound s) (code : Byte) :
    OutboundSound (writeCommandRegister code s) := by
  obtain reset | carried := writeCommandRegister_cases h.holders code
  · exact reset ▸ deviceReset_outboundSound false s
  · exact h.of_carries carried ((writeCommandRegister_keeps code s).holders h.holders)

theorem writeSetting_outboundSound {s : State} (h : OutboundSound s) (x : Setting) (v : Nat) :
    OutboundSound (writeSetting x v s) := by
  have kept := (writeSetting_keeps x v s).holders h.holders
  revert kept
  unfold writeSetting
  split
  · next accepted => exact fun _ => assign_outboundSound h accepted
  · exact h.of_carries (carries_of_same rfl rfl)

theorem writeLinkSelect_carries (v : Byte) (s : State) : Carries s (writeLinkSelect v s) := by
  unfold writeLinkSelect
  split <;> exact carries_of_same rfl rfl

theorem writeCursorHigh_carries (v : Byte) (s : State) : Carries s (writeCursorHigh v s) := by
  unfold writeCursorHigh
  split
  · exact .refl s
  · split <;> exact carries_of_same rfl rfl

theorem writeCeilingHigh_carries (v : Byte) (s : State) : Carries s (writeCeilingHigh v s) := by
  unfold writeCeilingHigh writeCeiling
  split <;> exact carries_of_same rfl rfl

theorem windowWrite_outboundSound {s : State} (h : OutboundSound s) (a : BitVec 7) (v : Byte) :
    OutboundSound (windowWrite a v s) := by
  have kept := (windowWrite_keeps a v s).holders h.holders
  revert kept
  unfold windowWrite
  split
  · exact fun _ => writeCommandRegister_outboundSound h v
  · exact h.of_carries (writeLinkSelect_carries v s)
  · exact h.of_carries (carries_of_same rfl rfl)
  · exact h.of_carries (carries_of_same rfl rfl)
  · exact h.of_carries (carries_of_same rfl rfl)
  · exact h.of_carries (carries_of_same rfl rfl)
  · exact h.of_carries (writeCursorHigh_carries v s)
  · exact h.of_carries (writeComposePort_carries v s)
  · exact h.of_carries (carries_of_same rfl rfl)
  · exact h.of_carries (writeCeilingHigh_carries v s)
  · split
    · exact fun _ => writeSetting_outboundSound h _ _
    · exact fun _ => h

theorem takeWrite_outboundSound {s : State} (h : OutboundSound s) (a : BitVec 7) (v : Byte) :
    OutboundSound (takeWrite a v s) := by
  unfold takeWrite hostWrite
  split
  · exact h
  · exact windowWrite_outboundSound h a v

theorem readEffect_carries (a : BitVec 7) (s : State) : Carries s (readEffect a s) := by
  have port : Carries s (readDataPort s) := by
    unfold readDataPort
    split
    · exact .refl s
    · split <;> exact carries_of_same rfl rfl
  generalize he : readEffect a = effect
  unfold readEffect at he
  split at he <;> subst he
  · exact port
  all_goals exact carries_of_same rfl rfl

theorem takeRead_carries (a : BitVec 7) (s : State) : Carries s (takeRead a s) := by
  unfold takeRead hostRead
  split
  · exact carries_of_same rfl rfl
  · exact (readEffect_carries a s).trans (carries_of_same rfl rfl)

/-! ### A reference period, a command and a step -/

theorem busPeriod_outboundSound {s : State} (h : OutboundSound s) : OutboundSound (busPeriod s) := by
  have written : OutboundSound (if writeEnds s.inputs s.inputs.next then
      takeWrite s.inputs.next.address s.inputs.next.data s else s) := by
    split
    · exact takeWrite_outboundSound h _ _
    · exact h
  have driven (t : State) : Carries t (driveData s.inputs s.inputs.next t) := by
    unfold driveData
    split
    · exact takeRead_carries _ t
    · split
      · exact .refl t
      · exact carries_of_same rfl rfl
  exact written.of_carries ((driven _).trans (carries_of_same rfl rfl)) ((busPeriod_keeps s).holders h.holders)

theorem clockPeriod_outboundSound {s : State} (h : OutboundSound s) : OutboundSound (clockPeriod s) := by
  have bus := busPeriod_outboundSound h
  simp only [clockPeriod]
  split
  · exact bus
  · have quiet (t : State) : Carries t (placeBlock (agePulsePeriod (countPeriod t))) :=
      ((countPeriod_carries t).trans (agePulsePeriod_carries _)).trans (placeBlock_carries _)
    have kept (t : State) : Keeps t (placeBlock (agePulsePeriod (countPeriod t))) :=
      ((countPeriod_keeps t).trans (agePulsePeriod_keeps _)).trans (placeBlock_keeps _)
    exact linkPeriods_outboundSound (bus.of_carries (quiet _) ((kept _).holders bus.holders))

/-- Every command keeps the outstanding messages within their limits, given that it keeps the holders. -/
theorem exec_outboundSound {s : State} (h : OutboundSound s) (c : Instr) :
    ∃ t, exec c s = .next t ∧ (HoldersSound t → OutboundSound t) :=
  have command {c : Instr} (code : Byte) (hc : commandCode c = some code) :
      ∃ t, exec c s = .next t ∧ (HoldersSound t → OutboundSound t) :=
    ⟨_, exec_of_commandCode hc s, fun _ => writeCommandRegister_outboundSound h code⟩
  match c with
  | .resetLineLow => ⟨_, rfl, (deviceReset_outboundSound true s).of_carries (carries_of_same rfl rfl)⟩
  | .resetLineHigh => ⟨_, rfl, h.of_carries (carries_of_same rfl rfl)⟩
  | .freeListRebuilt => ⟨_, rfl, h.of_carries (by split <;> exact carries_of_same rfl rfl)⟩
  | .tick => ⟨_, rfl, h.of_carries (takeTick_carries s)⟩
  | .agePulse => ⟨_, rfl, h.of_carries (agePulsePeriod_carries s)⟩
  | .contextLifetimeExpiry e => ⟨_, rfl, h.of_carries (lifetimeExpiry_carries e s)⟩
  | .acknowledgementWaitExpiry d => ⟨_, rfl, h.of_carries (ackWaitExpiry_carries d s)⟩
  | .refuseBackoffExpiry d => ⟨_, rfl, h.of_carries (backoffExpiry_carries d s)⟩
  | .settlingGapEnd L => ⟨_, rfl, h.of_carries (carries_of_receiverOnly (endSettling_receiverOnly L s))⟩
  | .rxFrameComplete L => ⟨_, rfl, h.of_carries (finishFrame_carries h.holders L)⟩
  | .truncation L => ⟨_, rfl, h.of_carries (carries_of_receiverOnly (truncateFrame_receiverOnly L s))⟩
  | .characterError L => ⟨_, rfl, h.of_carries (receiveError_carries h.holders L)⟩
  | .oversizedPayloadLength L => ⟨_, rfl, h.of_carries (carries_of_receiverOnly (discardOversized_receiverOnly L s))⟩
  | .fragment L => ⟨_, rfl, h.of_carries (takeHandedFragment_carries L s)⟩
  | .ackReceived L => ⟨_, rfl, h.of_carries (takeHandedAck_carries L s)⟩
  | .refuseReceived L => ⟨_, rfl, h.of_carries (takeHandedRefuse_carries h.holders L)⟩
  | .frameStart L => ⟨_, rfl, fun _ => takeFrameStart_outboundSound h L⟩
  | .frameEnd L => ⟨_, rfl, h.of_carries (by
      split
      · exact endFrame_carries h.holders L
      · exact .refl s)⟩
  | .txGapEnd L => ⟨_, rfl, h.of_carries (by split <;> exact carries_of_same rfl rfl)⟩
  | .linkStart | .linkStop | .linkReset | .take | .takeAny | .release | .requeue | .composeOpen | .composeSubmit
  | .composeCancel | .outWithdraw | .noticeClearOverflow | .countersClear | .clearFlags | .deviceReset
  | .unknownCommand _ => command _ rfl
  | .readDataPortRead => ⟨_, rfl, h.of_carries (takeRead_carries 0x24 s)⟩
  | .readCursorLowRead => ⟨_, rfl, h.of_carries (takeRead_carries 0x25 s)⟩
  | .writeCountLowRead => ⟨_, rfl, h.of_carries (takeRead_carries 0x28 s)⟩
  | .tickCounterLowRead => ⟨_, rfl, h.of_carries (takeRead_carries 0x2A s)⟩
  | .freeCountLowRead => ⟨_, rfl, h.of_carries (takeRead_carries 0x2E s)⟩
  | .inboundHoldLowRead => ⟨_, rfl, h.of_carries (takeRead_carries 0x49 s)⟩
  | .linkSelectWrite v => ⟨_, rfl, fun _ => takeWrite_outboundSound h 0x04 v⟩
  | .readCursorLowWrite v => ⟨_, rfl, fun _ => takeWrite_outboundSound h 0x25 v⟩
  | .readCursorHighWrite v => ⟨_, rfl, fun _ => takeWrite_outboundSound h 0x26 v⟩
  | .composeDataPortWrite v => ⟨_, rfl, fun _ => takeWrite_outboundSound h 0x27 v⟩
  | .ceilingLowWrite v => ⟨_, rfl, fun _ => takeWrite_outboundSound h 0x47 v⟩
  | .ceilingHighWrite v => ⟨_, rfl, fun _ => takeWrite_outboundSound h 0x48 v⟩
  | .configurationWrite a v => ⟨_, rfl, fun _ => takeWrite_outboundSound h a v⟩
  | .characterReceived L b => ⟨_, rfl, h.of_carries (receiveCharacter_carries h.holders L b)⟩

theorem outboundSound_of_settingsLegal {s : State} (legal : SettingsLegal s) (holders : HoldersSound s)
    (messages : OutstandingSound s) : OutboundSound s :=
  ⟨holders, fun L => ⟨(legal.links L).outstandingLimit.2, (legal.links L).attemptLimit.1⟩, messages⟩

/-- Settles O57: a frame start alone makes a message outstanding, within the limit and with a tag not in use; a limit is
written above what is in use; and every other operation keeps the tags and the attempts, or ends or resends a message
within its limit. -/
theorem everyStepKeepsTheOutstandingLimits : Obligations.EveryStepKeepsTheOutstandingLimits := by
  intro s t legal holders messages h
  have sound := outboundSound_of_settingsLegal legal holders messages
  have kept := (step_keeps h).holders holders
  unfold step at h
  split at h
  · cases h; exact (clockPeriod_outboundSound sound).messages
  · next c rest _ =>
    have fetched : OutboundSound { s with pending := rest } :=
      sound.of_carries (carries_of_same rfl rfl) ((pending_keeps rest s).holders holders)
    obtain ⟨u, hu, k⟩ := exec_outboundSound fetched c
    obtain rfl : u = t := by rw [hu] at h; exact Host.Outcome.next.inj h
    exact (k kept).messages

end Sys2Proof.Steps
end

section
/-! PROOFS. The commands that clear counts: COUNTERS_CLEAR and NOTICE_CLEAR_OVERFLOW (R172, R176). -/

namespace Sys2Proof.Steps

open Sys2Proof.Machine Sys2Proof.Safety Sys2Proof.Statement

/-- Clearing the counters replaces the link's port alone, so the host port is answered as it stood. -/
theorem recordOutcome_clearCounters (code : Byte) (o : CommandOutcome) (L : Link) (s : State) :
    recordOutcome code o (clearCounters L s) =
      { s with
        ports := s.ports.put L { s.port L with counters := .zero, lossIndicator := false }
        host := answered code o s } := rfl

theorem exec_countersClear {s : State} (operational : s.operational) :
    exec .countersClear s = .next (recordOutcome 0x31 (countersClearBody s).2 (countersClearBody s).1) :=
  congrArg Host.Outcome.next (issueCommand_operational operational)

/-- Settles O34: P0 names the link whose port is cleared, or none, and the overflow count needs no parameter. -/
theorem countersClearAndClearOverflow : Obligations.CountersClearAndClearOverflow := by
  intro s operational
  refine ⟨fun large => ?_, fun L hL => ?_, ?_⟩
  · rw [exec_countersClear operational, countersClearBody, linkParameter_eq_none.2 large]
    rfl
  · rw [exec_countersClear operational, countersClearBody, linkParameter_eq_some.2 hL]
    exact congrArg Host.Outcome.next (recordOutcome_clearCounters 0x31 .ok L s)
  · exact congrArg Host.Outcome.next (issueCommand_operational operational)

end Sys2Proof.Steps
end

section
/-! PROOFS. What the command register and the window do while the part is held in reset or initialises, CLEAR_FLAGS, and
the configuration writes of the settings (sections 11.2 to 11.5). -/

namespace Sys2Proof.Steps

open Sys2Proof.Machine Sys2Proof.Safety Sys2Proof.Statement

theorem lowByte_toNat (v : Byte) : lowByte v.toNat = v := BitVec.ofNat_toNat 8 v

/-! ### The command register (R182, R188, R190) -/

/-- DEVICE_RESET is answered as any other command during initialisation (R189). -/
theorem commandDeviceReset_initialising {s : State} (high : s.host.resetLow = false)
    (init : s.host.device = .initialising) : commandDeviceReset s = recordOutcome 0x3F .notReady s := by
  rw [commandDeviceReset, hostWrite_high high, init]

/-- A write of the command register is a command judged by some rule of its own, or DEVICE_RESET. -/
theorem writeCommandRegister_issues_or_resets (code : Byte) (s : State) :
    (∃ body, writeCommandRegister code s = issueCommand code body s) ∨
      code = 0x3F ∧ writeCommandRegister code s = commandDeviceReset s := by
  by_cases reset : code = 0x3F
  · subst reset
    exact .inr ⟨rfl, rfl⟩
  · left
    unfold writeCommandRegister
    split
    case h_15 h => exact absurd (BitVec.eq_of_toNat_eq h) reset
    all_goals exact ⟨_, rfl⟩

theorem writeCommandRegister_resetLow (code : Byte) {s : State} (low : s.host.resetLow = true) :
    writeCommandRegister code s = s := by
  obtain ⟨body, issued⟩ | ⟨-, reset⟩ := writeCommandRegister_issues_or_resets code s
  · rw [issued, issueCommand_resetLow low]
  · rw [reset, commandDeviceReset, hostWrite_low low]

theorem writeCommandRegister_initialising (code : Byte) {s : State} (high : s.host.resetLow = false)
    (init : s.host.device = .initialising) : writeCommandRegister code s = recordOutcome code .notReady s := by
  obtain ⟨body, issued⟩ | ⟨rfl, reset⟩ := writeCommandRegister_issues_or_resets code s
  · rw [issued, issueCommand_initialising high init]
  · rw [reset, commandDeviceReset_initialising high init]

/-- A code outside the command table has no rule but UNKNOWN. -/
theorem writeCommandRegister_unknown {code : Byte} (s : State)
    (outside : (Instr.unknownCommand code).wellFormed = true) :
    writeCommandRegister code s = issueCommand code unknownBody s := by
  have other : code ∉ commandCodes := by simpa [Instr.wellFormed] using outside
  unfold writeCommandRegister
  split
  case h_16 => rfl
  all_goals
    next listed => exact absurd (by rw [← lowByte_toNat code, listed]; decide) other

/-- Settles O6: a command is a write of its code, and only DEVICE_RESET is not judged as the others are. -/
theorem commandsAreNotReadyOrUnknown : Obligations.CommandsAreNotReadyOrUnknown := by
  refine ⟨fun c code s hc init high => ?_, fun s code operational outside => ?_⟩
  · rw [exec_of_commandCode hc, writeCommandRegister_initialising code high init]
    rfl
  · rw [exec_of_commandCode rfl, writeCommandRegister_unknown s outside, issueCommand_operational operational]
    rfl

/-- Settles O35: the command's own rule in READY, and NOT_READY during initialisation. -/
theorem clearFlagsClearsTwoFlags : Obligations.ClearFlagsClearsTwoFlags := by
  refine fun s high => ⟨fun ready => ?_, fun init => ?_⟩
  · exact congrArg Host.Outcome.next (issueCommand_operational ⟨ready, high⟩)
  · exact congrArg Host.Outcome.next (issueCommand_initialising high init)

/-! ### Accesses while the RESET line is low (R188) -/

/-- A write of the window that is no command is a host write. -/
theorem exec_of_isDataWrite {c : Instr} (h : isDataWrite c = true) (s : State) :
    ∃ effect, exec c s = .next (hostWrite effect s) := by
  cases c with
  | readCursorLowWrite | readCursorHighWrite | composeDataPortWrite | ceilingLowWrite | ceilingHighWrite
  | linkSelectWrite | configurationWrite => exact ⟨_, rfl⟩
  | _ => cases h

/-- A read command is a host read of its address. -/
theorem exec_of_readAddress {c : Instr} {a : BitVec 7} (h : readAddress c = some a) (s : State) :
    ∃ effect, exec c s = .next (hostRead (fun s => windowRead s a) effect s) := by
  cases c <;> cases h <;> exact ⟨_, rfl⟩

/-- Settles O7: every write of the window has no effect, and every read no effect but its value. -/
theorem accessesWhileTheResetLineIsLow : Obligations.AccessesWhileTheResetLineIsLow := by
  refine fun c s low => ⟨fun write => ?_, fun a read => ?_⟩
  · obtain command | data := write
    · obtain ⟨code, hc⟩ := Option.isSome_iff_exists.1 command
      rw [exec_of_commandCode hc, writeCommandRegister_resetLow code low]
    · obtain ⟨effect, written⟩ := exec_of_isDataWrite data s
      rw [written, hostWrite_low low]
  · obtain ⟨effect, driven⟩ := exec_of_readAddress read s
    rw [driven, hostRead_low low]
    rfl

/-! ### The settings of the register window (section 11.5) -/

theorem settingAt_addressOf (x : Setting) : settingAt (addressOf x) = some x := by cases x <;> rfl

theorem settingAt_eq_some {a : Nat} {x : Setting} : settingAt a = some x ↔ a = addressOf x := by
  refine ⟨fun h => ?_, fun h => h ▸ settingAt_addressOf x⟩
  unfold settingAt at h
  split at h <;> cases h <;> rfl

theorem settingAt_eq_none {a : Nat} : settingAt a = none ↔ ∀ x, a ≠ addressOf x := by
  simp only [Option.eq_none_iff_forall_ne_some, ne_eq, settingAt_eq_some]

theorem onOff_eq_lowByte (b : Bool) : onOff b = lowByte b.toNat := by cases b <;> rfl

/-- The address of a setting reads its value, in the page of the selected link. -/
theorem windowRead_setting (s : State) {a : BitVec 7} {x : Setting} (h : a.toNat = addressOf x) :
    windowRead s a = lowByte (x.value s.selected s) := by
  rw [windowRead, h]
  cases x with
  | attentionEnable | acceptBroadcast | reportDone => exact onOff_eq_lowByte _
  | _ => rfl

/-! ### When a setting is taken (R184) -/

theorem attemptsAllow_iff {L : Link} {v : Nat} {x : Descriptor} :
    attemptsAllow L v x = true ↔
      (x.link = L → ((x.state = .sending ∨ x.state = .awaitAck) → x.attempts ≤ v) ∧
        ((x.state = .backoff ∨ x.state = .resend) → x.attempts < v)) := by
  unfold attemptsAllow
  by_cases hL : x.link = L
  · cases hs : x.state <;> simp [hL]
  · simp [hL]

/-- The model's range, lock and floor are those of section 11.5. -/
theorem accepts_iff_writable (x : Setting) (v : Byte) (s : State) :
    x.accepts v.toNat s = true ↔ writable s.selected s v.toNat x := by
  have byte : v.toNat ≤ 255 := by omega
  cases x <;>
    simp [Setting.accepts, Setting.inRange, Setting.offOnly, Setting.aboveFloor, writable, attemptsAllow_iff,
      and_assoc, byte]

/-! ### What a taken setting changes (R184) -/

theorem toNat_beq_one {v : Nat} (h : v ≤ 1) : (v == 1).toNat = v := by interval_cases v <;> rfl

/-- A setting of its range, once assigned, has its new value in the selected link's page. -/
theorem value_assign_self {x : Setting} {v : Nat} (h : x.inRange v = true) (s : State) :
    x.value s.selected (x.assign v s) = v := by
  cases x with
  | attentionEnable => exact toNat_beq_one (of_decide_eq_true h)
  | acceptBroadcast | reportDone =>
    simpa [Setting.value, Setting.assign] using toNat_beq_one (of_decide_eq_true h)
  | _ => simp [Setting.value, Setting.assign, setLineRate]

/-- Two settings are two fields, and the pages of two links two entries of a table. -/
theorem value_assign_other {x y : Setting} {L : Link} {s : State}
    (h : y ≠ x ∨ (0x40 ≤ addressOf x ∧ L ≠ s.selected)) (v : Nat) : y.value L (x.assign v s) = y.value L s := by
  cases x with
  | prescale | ageStep | composeReserve | noticeWeight | threshold | attentionEnable =>
    cases y <;> simp [Setting.value, Setting.assign, State.port, State.sch, addressOf] at h ⊢
  | contextQuota | reassemblyLifetime | linkWeight =>
    by_cases hL : L = s.selected <;> cases y <;>
      simp [Setting.value, Setting.assign, State.port, State.sch, Table.look_put, hL] at h ⊢
  | stationAddress | acceptBroadcast | lineRate =>
    by_cases hL : L = s.selected <;> cases y <;>
      simp [Setting.value, Setting.assign, setLineRate, State.setPort_port, hL] at h ⊢
  | outstandingLimit | attemptLimit | ackWait | refuseBackoff | reportDone =>
    by_cases hL : L = s.selected <;> cases y <;> simp [Setting.value, Setting.assign, State.setSch_sch, hL] at h ⊢

theorem assign_frame (x : Setting) (v : Nat) (s : State) :
    x.assign v s = { s with
      ports := (x.assign v s).ports, time := (x.assign v s).time, sched := (x.assign v s).sched,
      pool := { s.pool with reserve := (x.assign v s).pool.reserve },
      reasm := { s.reasm with quota := (x.assign v s).reasm.quota, lifetime := (x.assign v s).reasm.lifetime },
      arbiter := { s.arbiter with
        linkWeight := (x.assign v s).arbiter.linkWeight, noticeWeight := (x.assign v s).arbiter.noticeWeight,
        threshold := (x.assign v s).arbiter.threshold,
        attentionEnable := (x.assign v s).arbiter.attentionEnable } } := by
  cases x <;> rfl

/-- A write of the age-step restarts the divider (R29). -/
theorem assign_time (x : Setting) (v : Nat) (s : State) :
    (x.assign v s).time = { s.time with
      prescale := (x.assign v s).time.prescale, ageStep := (x.assign v s).time.ageStep,
      divider := if x = .ageStep then 0 else s.time.divider } := by
  cases x <;> rfl

/-- A write of the line rate restarts a gap being measured (R3). -/
theorem assign_port (x : Setting) (v : Nat) (L : Link) (s : State) :
    (x.assign v s).port L = { s.port L with
      stationAddress := ((x.assign v s).port L).stationAddress,
      acceptBroadcast := ((x.assign v s).port L).acceptBroadcast,
      lineRate := ((x.assign v s).port L).lineRate,
      txPeriods := if x = .lineRate ∧ L = s.selected then 0 else (s.port L).txPeriods } := by
  cases x with
  | stationAddress | acceptBroadcast | lineRate =>
    by_cases hL : L = s.selected <;> simp [Setting.assign, setLineRate, State.setPort_port, hL]
  | _ => rfl

theorem assign_sch (x : Setting) (v : Nat) (L : Link) (s : State) :
    (x.assign v s).sch L = { s.sch L with
      outstandingLimit := ((x.assign v s).sch L).outstandingLimit,
      attemptLimit := ((x.assign v s).sch L).attemptLimit,
      ackWait := ((x.assign v s).sch L).ackWait, refuseBackoff := ((x.assign v s).sch L).refuseBackoff,
      reportDone := ((x.assign v s).sch L).reportDone } := by
  cases x with
  | outstandingLimit | attemptLimit | ackWait | refuseBackoff | reportDone =>
    by_cases hL : L = s.selected <;> simp [Setting.assign, State.setSch_sch, hL]
  | _ => rfl

/-! ### Writes of the window (R179, R181) -/

theorem windowWrite_setting {a : BitVec 7} {x : Setting} (h : a.toNat = addressOf x) (v : Byte) (s : State) :
    windowWrite a v s = writeSetting x v.toNat s := by
  rw [windowWrite, h]
  cases x <;> rfl

/-- An address with no row, no parameter and no setting ignores its write. -/
theorem windowWrite_ignored {a : BitVec 7} {v : Byte} (ownRow : (Instr.configurationWrite a v).wellFormed = true)
    (parameter : a ≠ 0x05 ∧ a ≠ 0x06 ∧ a ≠ 0x07) (setting : ∀ x, a.toNat ≠ addressOf x) (s : State) :
    windowWrite a v s = s := by
  have other : a ∉ [0x05, 0x06, 0x07] ++ ownWriteRows := by
    simpa [Instr.wellFormed, and_assoc] using And.intro parameter ownRow
  have address : a = BitVec.ofNat 7 a.toNat := by simp
  unfold windowWrite
  split
  case h_11 => rw [settingAt_eq_none.2 setting]
  all_goals
    next assigned => exact absurd (by rw [address, assigned]; decide) other

/-- Settles O49: the address decides what the write is of, and a write of a setting is taken or refused. -/
theorem configurationWritesAreTakenOrRefused : Obligations.ConfigurationWritesAreTakenOrRefused := by
  intro s a v high ownRow
  have write : exec (.configurationWrite a v) s = .next (windowWrite a v s) :=
    congrArg Host.Outcome.next (hostWrite_high high)
  refine ⟨fun x hx free => ?_, fun x hx locked => ?_, ?_, ?_, ?_, fun setting n5 n6 n7 => ?_⟩
  · have accepted : x.accepts v.toNat s = true := (accepts_iff_writable x v s).2 free
    have taken : exec (.configurationWrite a v) s = .next (x.assign v.toNat s) := by
      rw [write, windowWrite_setting hx, writeSetting, if_pos accepted]
    have reads : windowRead (x.assign v.toNat s) a = v := by
      have page : (x.assign v.toNat s).selected = s.selected :=
        congrArg HostPort.linkSelect (assign_settingOnly x _ s).host
      rw [windowRead_setting _ hx, page, value_assign_self (accepts_inRange accepted), lowByte_toNat]
    exact ⟨_, taken, reads, fun y L other => value_assign_other (hx ▸ other) _, assign_frame x _ s,
      assign_time x _ s, fun L => assign_port x _ L s, fun L => assign_sch x _ L s⟩
  · rw [write, windowWrite_setting hx, writeSetting, if_neg (mt (accepts_iff_writable x v s).1 locked)]
    rfl
  · rintro rfl
    exact write
  · rintro rfl
    exact write
  · rintro rfl
    exact write
  · rw [write, windowWrite_ignored ownRow ⟨n5, n6, n7⟩ setting]

end Sys2Proof.Steps
end

section
/-! PROOFS. A step takes the command at the front of the queue, and every command ends in a next state and leaves the
queue of those that wait (section 4.5; log entries 3, 21, 23, 25). What belongs to a link leaves the queue by its
`LinkFrame`; what is left are the commands of the command register, the accesses of the host, and the device reset. -/

namespace Sys2Proof.Steps

open Sys2Proof.Machine Sys2Proof.Safety Sys2Proof.Statement

/-! ### Age pulses and receivers -/

theorem agePulsePeriod_pending (s : State) : (agePulsePeriod s).pending = s.pending := by
  unfold agePulsePeriod
  split <;> rfl

theorem finishFrame_linkFrame (L : Link) (s : State) : LinkFrame s (finishFrame L s) := by
  unfold finishFrame
  split
  · exact (takeHandedOver_handOff L s).frame.trans (completeFrame_receiverOnly L _).linkFrame
  · exact .refl s

theorem receiveCharacter_linkFrame (L : Link) (b : Byte) (s : State) : LinkFrame s (receiveCharacter L b s) :=
  (concludeFrame_linkFrame L s).trans (hearCharacter_receiverOnly L b _).linkFrame

theorem receiveError_linkFrame (L : Link) (s : State) : LinkFrame s (receiveError L s) :=
  (concludeFrame_linkFrame L s).trans (hearError_receiverOnly L _).linkFrame

/-! ### Links: start, stop and reset (R18 to R21, R176) -/

theorem linkStartBody_pending (s : State) : (linkStartBody s).1.pending = s.pending := by
  unfold linkStartBody
  split
  · rfl
  · split
    · split <;> rfl
    · rfl
    · rfl

theorem stopLink_pending (L : Link) (s : State) : (stopLink L s).pending = s.pending := by
  simp only [stopLink]
  split
  · rfl
  · exact (enterOff_linkFrame L _).pending

theorem linkStopBody_pending (s : State) : (linkStopBody s).1.pending = s.pending := by
  unfold linkStopBody
  split
  · rfl
  · split
    · exact stopLink_pending _ s
    · rfl
    · rfl

theorem freeMessages_pending (ds : List DescNo) (s : State) : (freeMessages ds s).pending = s.pending := by
  induction ds generalizing s with
  | nil => rfl
  | cons d ds ih => exact ih (freeMessage d s)

theorem resetLink_pending (L : Link) (s : State) : (resetLink L s).pending = s.pending := by
  simp only [resetLink, (recordNotice_linkFrame _ _).pending, State.setPort_pending, State.setSch_pending,
    freeMessages_pending, State.setReady_pending, State.setHistory_pending, (abandonContexts_linkFrame _ _).pending]

theorem linkResetBody_pending (s : State) : (linkResetBody s).1.pending = s.pending := by
  unfold linkResetBody
  split
  · rfl
  · exact resetLink_pending _ s

theorem countersClearBody_pending (s : State) : (countersClearBody s).1.pending = s.pending := by
  unfold countersClearBody
  split <;> rfl

/-! ### The service context (R113 to R121) -/

theorem takeItem_pending (w : Source × Nat) (s : State) : (takeItem w s).pending = s.pending := by
  unfold takeItem
  split <;> split <;> rfl

theorem takeBody_pending (s : State) : (takeBody s).1.pending = s.pending := by
  unfold takeBody
  split
  · rfl
  · split
    · rfl
    · split
      · exact takeItem_pending _ s
      · rfl

theorem takeAnyBody_pending (s : State) : (takeAnyBody s).1.pending = s.pending := by
  unfold takeAnyBody
  split
  · rfl
  · split
    · rfl
    · exact takeItem_pending _ s

theorem releaseBody_pending (s : State) : (releaseBody s).1.pending = s.pending := by
  unfold releaseBody
  split <;> rfl

theorem requeueBody_pending (s : State) : (requeueBody s).1.pending = s.pending := by
  unfold requeueBody
  split
  · rfl
  · rfl
  · split <;> rfl

/-! ### The compose unit and OUT_WITHDRAW (R131 to R140, R161) -/

theorem composeOpenBody_pending (s : State) : (composeOpenBody s).1.pending = s.pending := by
  unfold composeOpenBody
  split
  · rfl
  · split
    · rfl
    · split
      · rfl
      · split
        · rfl
        · next claimed =>
          obtain ⟨-, rfl⟩ := claimDescriptor_eq_some.1 claimed
          rfl

theorem composeSubmitBody_pending (s : State) : (composeSubmitBody s).1.pending = s.pending := by
  unfold composeSubmitBody
  split <;> rfl

theorem composeCancelBody_pending (s : State) : (composeCancelBody s).1.pending = s.pending := by
  unfold composeCancelBody
  split <;> rfl

theorem outWithdrawBody_pending (s : State) : (outWithdrawBody s).1.pending = s.pending := by
  unfold outWithdrawBody
  split
  · rfl
  · split
    · rfl
    · split <;> rfl

theorem composeBlock_pending {d : DescNo} {s t : State} {b : BlockNo} (h : composeBlock d s = some (b, t)) :
    t.pending = s.pending := by
  unfold composeBlock at h
  split at h
  · obtain ⟨⟨_, _⟩, granted, same⟩ := Option.map_eq_some_iff.1 h
    obtain ⟨_, -, rfl⟩ := grantBlock_eq_some.1 granted
    cases same
    rfl
  · obtain ⟨_, -, same⟩ := Option.map_eq_some_iff.1 h
    cases same
    rfl

theorem writeComposeByte_pending (v : Byte) (s : State) : (writeComposeByte v s).pending = s.pending := by
  unfold writeComposeByte
  split
  · rfl
  · split
    · rfl
    · split
      · next stored => exact (composeBlock_pending stored :)
      · rfl

/-! ### Writes of the host -/

theorem hostWrite_pending {effect : State → State} {s : State} (h : (effect s).pending = s.pending) :
    (hostWrite effect s).pending = s.pending := by
  unfold hostWrite
  split
  · rfl
  · exact h

theorem issueCommand_pending {code : Byte} {body : State → State × CommandOutcome} {s : State}
    (h : (body s).1.pending = s.pending) : (issueCommand code body s).pending = s.pending := by
  refine hostWrite_pending ?_
  split
  · rfl
  · exact h

theorem commandDeviceReset_pending (s : State) : (commandDeviceReset s).pending = s.pending := by
  refine hostWrite_pending ?_
  split <;> rfl

theorem writeCommandRegister_pending (code : Byte) (s : State) :
    (writeCommandRegister code s).pending = s.pending := by
  unfold writeCommandRegister
  split
  · exact issueCommand_pending (linkStartBody_pending s)
  · exact issueCommand_pending (linkStopBody_pending s)
  · exact issueCommand_pending (linkResetBody_pending s)
  · exact issueCommand_pending (takeBody_pending s)
  · exact issueCommand_pending (takeAnyBody_pending s)
  · exact issueCommand_pending (releaseBody_pending s)
  · exact issueCommand_pending (requeueBody_pending s)
  · exact issueCommand_pending (composeOpenBody_pending s)
  · exact issueCommand_pending (composeSubmitBody_pending s)
  · exact issueCommand_pending (composeCancelBody_pending s)
  · exact issueCommand_pending (outWithdrawBody_pending s)
  · exact issueCommand_pending rfl
  · exact issueCommand_pending (countersClearBody_pending s)
  · exact issueCommand_pending rfl
  · exact commandDeviceReset_pending s
  · exact issueCommand_pending rfl

theorem writeLinkSelect_pending (v : Byte) (s : State) : (writeLinkSelect v s).pending = s.pending := by
  unfold writeLinkSelect
  split <;> rfl

theorem writeCursorHigh_pending (v : Byte) (s : State) : (writeCursorHigh v s).pending = s.pending := by
  unfold writeCursorHigh
  split
  · rfl
  · split <;> rfl

theorem writeComposePort_pending (v : Byte) (s : State) : (writeComposePort v s).pending = s.pending := by
  unfold writeComposePort
  split
  · rfl
  · exact writeComposeByte_pending v s

theorem writeCeilingHigh_pending (v : Byte) (s : State) : (writeCeilingHigh v s).pending = s.pending := by
  unfold writeCeilingHigh writeCeiling
  split <;> rfl

theorem writeSetting_pending (x : Setting) (v : Nat) (s : State) : (writeSetting x v s).pending = s.pending := by
  unfold writeSetting
  split
  · rw [assign_frame]
  · rfl

theorem windowWrite_pending (a : BitVec 7) (v : Byte) (s : State) : (windowWrite a v s).pending = s.pending := by
  unfold windowWrite
  split
  · exact writeCommandRegister_pending v s
  · exact writeLinkSelect_pending v s
  · rfl
  · rfl
  · rfl
  · rfl
  · exact writeCursorHigh_pending v s
  · exact writeComposePort_pending v s
  · rfl
  · exact writeCeilingHigh_pending v s
  · split
    · exact writeSetting_pending _ _ s
    · rfl

theorem takeWrite_pending (a : BitVec 7) (v : Byte) (s : State) : (takeWrite a v s).pending = s.pending :=
  hostWrite_pending (windowWrite_pending a v s)

/-! ### Reads of the host -/

theorem readDataPort_pending (s : State) : (readDataPort s).pending = s.pending := by
  unfold readDataPort
  split
  · rfl
  · split <;> rfl

theorem readEffect_pending (a : BitVec 7) (s : State) : (readEffect a s).pending = s.pending := by
  generalize he : readEffect a = effect
  unfold readEffect at he
  split at he <;> subst he
  · exact readDataPort_pending s
  all_goals rfl

theorem takeRead_pending (a : BitVec 7) (s : State) : (takeRead a s).pending = s.pending := by
  unfold takeRead hostRead driveBus
  split
  · rfl
  · exact readEffect_pending a s

/-! ### The statements -/

/-- A command leaves the queue because the part that carries it out does: a link, the time base, the command register,
or an access of the host at its address. -/
theorem exec_pending (c : Instr) (s : State) : ∃ t, exec c s = .next t ∧ t.pending = s.pending :=
  have command {c : Instr} (code : Byte) (h : commandCode c = some code) :
      ∃ t, exec c s = .next t ∧ t.pending = s.pending :=
    ⟨_, exec_of_commandCode h s, writeCommandRegister_pending code s⟩
  match c with
  | .resetLineLow | .resetLineHigh => ⟨_, rfl, rfl⟩
  | .freeListRebuilt | .txGapEnd _ => ⟨_, rfl, by split <;> rfl⟩
  | .tick => ⟨_, rfl, takeTick_pending s⟩
  | .agePulse => ⟨_, rfl, agePulsePeriod_pending s⟩
  | .contextLifetimeExpiry e => ⟨_, rfl, (lifetimeExpiry_linkFrame e s).pending⟩
  | .acknowledgementWaitExpiry d => ⟨_, rfl, (ackWaitExpiry_linkFrame d s).pending⟩
  | .refuseBackoffExpiry d => ⟨_, rfl, (backoffExpiry_linkFrame d s).pending⟩
  | .settlingGapEnd L => ⟨_, rfl, (endSettling_receiverOnly L s).linkFrame.pending⟩
  | .rxFrameComplete L => ⟨_, rfl, (finishFrame_linkFrame L s).pending⟩
  | .truncation L => ⟨_, rfl, (truncateFrame_receiverOnly L s).linkFrame.pending⟩
  | .characterError L => ⟨_, rfl, (receiveError_linkFrame L s).pending⟩
  | .characterReceived L b => ⟨_, rfl, (receiveCharacter_linkFrame L b s).pending⟩
  | .oversizedPayloadLength L => ⟨_, rfl, (discardOversized_receiverOnly L s).linkFrame.pending⟩
  | .fragment L => ⟨_, rfl, (takeHandedFragment_handOff L s).frame.pending⟩
  | .ackReceived L => ⟨_, rfl, (takeHandedAck_handOff L s).frame.pending⟩
  | .refuseReceived L => ⟨_, rfl, (takeHandedRefuse_handOff L s).frame.pending⟩
  | .frameStart L => ⟨_, rfl, (takeFrameStart_linkFrame L s).pending⟩
  | .frameEnd L => ⟨_, rfl, by
      split
      · exact (endFrame_linkFrame L s).pending
      · rfl⟩
  | .linkStart | .linkStop | .linkReset | .take | .takeAny | .release | .requeue | .composeOpen | .composeSubmit
  | .composeCancel | .outWithdraw | .noticeClearOverflow | .countersClear | .clearFlags | .deviceReset
  | .unknownCommand _ => command _ rfl
  | .readDataPortRead => ⟨_, rfl, takeRead_pending 0x24 s⟩
  | .readCursorLowRead => ⟨_, rfl, takeRead_pending 0x25 s⟩
  | .writeCountLowRead => ⟨_, rfl, takeRead_pending 0x28 s⟩
  | .tickCounterLowRead => ⟨_, rfl, takeRead_pending 0x2A s⟩
  | .freeCountLowRead => ⟨_, rfl, takeRead_pending 0x2E s⟩
  | .inboundHoldLowRead => ⟨_, rfl, takeRead_pending 0x49 s⟩
  | .linkSelectWrite v => ⟨_, rfl, takeWrite_pending 0x04 v s⟩
  | .readCursorLowWrite v => ⟨_, rfl, takeWrite_pending 0x25 v s⟩
  | .readCursorHighWrite v => ⟨_, rfl, takeWrite_pending 0x26 v s⟩
  | .composeDataPortWrite v => ⟨_, rfl, takeWrite_pending 0x27 v s⟩
  | .ceilingLowWrite v => ⟨_, rfl, takeWrite_pending 0x47 v s⟩
  | .ceilingHighWrite v => ⟨_, rfl, takeWrite_pending 0x48 v s⟩
  | .configurationWrite a v => ⟨_, rfl, takeWrite_pending a v s⟩

/-- Settles O2: no command has an arm that faults or refuses, and none writes the queue. -/
theorem commandsLeaveTheQueue : Obligations.CommandsLeaveTheQueue := exec_pending

/-- Settles O1: the queue is not empty, so the step is that of its front command. -/
theorem stepRunsTheFrontCommand : Obligations.StepRunsTheFrontCommand := by
  intro c rest s front
  rw [step, front]

end Sys2Proof.Steps
end

section
/-! PROOFS. The contexts that are abandoned together, and the parts of a link that a frame end, an entry to OFF and LINK
RESET leave (R16, R20, R21, R42, R86, R87). -/

namespace Sys2Proof.Steps

open Sys2Proof.Machine Sys2Proof.Safety Sys2Proof.Statement

/-! ### Contexts abandoned one after another (R42) -/

theorem returnBlocks_append (bs bs' : List BlockNo) (s : State) :
    returnBlocks (bs ++ bs') s = returnBlocks bs' (returnBlocks bs s) := by
  simp [returnBlocks]

/-- The blocks that an entry of the context table holds, in the order in which they are returned. -/
def entryBlocks (s : State) (e : EntryNo) : List BlockNo := (s.context e).elim [] slotBlocks

theorem abandonContext_context (e : EntryNo) (s : State) (i : EntryNo) :
    (abandonContext e s).context i = if i = e then none else s.context i := by
  cases hc : s.context e with
  | none =>
    rw [abandonContext_of_none hc]
    split
    · next h => rw [h, hc]
    · rfl
  | some c => rw [abandonContext_eq hc, State.setContext_context]; rfl

theorem abandonContext_desc (e : EntryNo) (s : State) (d : DescNo) :
    (abandonContext e s).desc d = if (s.context e).map (·.descriptor) = some d then .cleared else s.desc d := by
  cases hc : s.context e with
  | none => rw [abandonContext_of_none hc]; rfl
  | some c =>
    rw [abandonContext_eq hc, State.setContext_desc, State.setDesc_desc]
    simp only [Option.map_some, Option.some.injEq, eq_comm]
    rfl

/-- An abandoned context returns its blocks; beyond the pool it changes descriptors and entries alone. -/
theorem abandonContext_shape (e : EntryNo) (s : State) :
    abandonContext e s = { returnBlocks (entryBlocks s e) s with
      table := { s.table with descriptors := (abandonContext e s).table.descriptors }
      reasm := { s.reasm with contexts := (abandonContext e s).reasm.contexts } } := by
  cases hc : s.context e with
  | none => rw [abandonContext_of_none hc]; simp [entryBlocks, hc, returnBlocks]
  | some c => rw [abandonContext_eq hc]; simp [entryBlocks, hc, State.setContext, State.setDesc, returnBlocks]

theorem abandonContexts_context (es : List EntryNo) (s : State) (i : EntryNo) :
    (abandonContexts es s).context i = if i ∈ es then none else s.context i := by
  induction es generalizing s with
  | nil => rfl
  | cons e es ih =>
    rw [abandonContexts, ih, abandonContext_context]
    by_cases h : i = e <;> simp [h]

theorem abandonContexts_desc {es : List EntryNo} (nodup : es.Nodup) (s : State) (d : DescNo) :
    (abandonContexts es s).desc d =
      if ∃ e ∈ es, (s.context e).map (·.descriptor) = some d then .cleared else s.desc d := by
  induction es generalizing s with
  | nil => simp [abandonContexts]
  | cons e es ih =>
    obtain ⟨he, nodup⟩ := List.nodup_cons.1 nodup
    have later : (∃ i ∈ es, ((abandonContext e s).context i).map (·.descriptor) = some d) ↔
        ∃ i ∈ es, (s.context i).map (·.descriptor) = some d :=
      exists_congr fun i => and_congr_right fun hi => by
        rw [abandonContext_context, if_neg (by rintro rfl; exact he hi)]
    rw [abandonContexts, ih nodup, abandonContext_desc, if_congr later rfl rfl]
    by_cases h : (s.context e).map (·.descriptor) = some d
    · rw [if_pos h, ite_self, if_pos ⟨e, List.mem_cons_self, h⟩]
    · rw [if_neg h]
      exact if_congr (by rw [List.exists_mem_cons_iff]; exact (or_iff_right h).symm) rfl rfl

/-- Contexts abandoned return their blocks, one context after another; beyond the pool they change descriptors and
entries alone. -/
theorem abandonContexts_shape {es : List EntryNo} (nodup : es.Nodup) (s : State) :
    abandonContexts es s = { returnBlocks (es.flatMap (entryBlocks s)) s with
      table := { s.table with descriptors := (abandonContexts es s).table.descriptors }
      reasm := { s.reasm with contexts := (abandonContexts es s).reasm.contexts } } := by
  induction es generalizing s with
  | nil => simp [abandonContexts, returnBlocks]
  | cons e es ih =>
    obtain ⟨he, nodup⟩ := List.nodup_cons.1 nodup
    have later : es.flatMap (entryBlocks (abandonContext e s)) = es.flatMap (entryBlocks s) :=
      List.flatMap_congr fun i hi => by
        rw [entryBlocks, abandonContext_context, if_neg (by rintro rfl; exact he hi), entryBlocks]
    rw [abandonContexts, ih nodup, later, List.flatMap_cons, returnBlocks_append]
    generalize (abandonContexts es (abandonContext e s)).table.descriptors = D
    generalize (abandonContexts es (abandonContext e s)).reasm.contexts = C
    rw [abandonContext_shape e s]
    rfl

/-! ### The contexts of a link (R86, R87) -/

theorem entriesOfLink_nodup (L : Link) (s : State) : (s.entriesOfLink L).Nodup := (List.nodup_finRange 32).filter _

theorem mem_entriesOfLink {L : Link} {s : State} {e : EntryNo} :
    e ∈ s.entriesOfLink L ↔ (s.context e).map (·.link) = some L := by
  simp [State.entriesOfLink, entryOfLink_iff]

theorem entriesOfLink_blocks (L : Link) (s : State) :
    (s.entriesOfLink L).flatMap (entryBlocks s) = contextBlocks L s := by
  unfold State.entriesOfLink contextBlocks
  induction List.finRange 32 with
  | nil => rfl
  | cons e es ih =>
    rw [List.flatMap_cons, ← ih, List.filter_cons]
    cases hc : s.context e with
    | none => simp [State.entryOfLink, hc]
    | some c =>
      by_cases hl : c.link = L
      · simp [State.entryOfLink, hc, hl, entryBlocks]
        rfl
      · simp [State.entryOfLink, hc, hl]

theorem assemblingOn_iff {L : Link} {d : DescNo} {s : State} :
    assemblingOn L d s ↔ ∃ e ∈ s.entriesOfLink L, (s.context e).map (·.descriptor) = some d := by
  simp only [mem_entriesOfLink, assemblingOn]
  refine exists_congr fun e => ?_
  cases s.context e <;> simp

/-- The contexts of link `L` are abandoned. -/
def abandonLink (L : Link) (s : State) : State := abandonContexts (s.entriesOfLink L) s

theorem abandonLink_context (L : Link) (s : State) (e : EntryNo) :
    (abandonLink L s).context e = if (s.context e).map (·.link) = some L then none else s.context e := by
  rw [abandonLink, abandonContexts_context, if_congr mem_entriesOfLink rfl rfl]

theorem abandonLink_desc (L : Link) (s : State) (d : DescNo) [Decidable (assemblingOn L d s)] :
    (abandonLink L s).desc d = if assemblingOn L d s then .cleared else s.desc d := by
  rw [abandonLink, abandonContexts_desc (entriesOfLink_nodup L s)]
  exact if_congr assemblingOn_iff.symm rfl rfl

theorem abandonLink_shape (L : Link) (s : State) :
    abandonLink L s = { returnBlocks (contextBlocks L s) s with
      table := { s.table with descriptors := (abandonLink L s).table.descriptors }
      reasm := { s.reasm with contexts := (abandonLink L s).reasm.contexts } } := by
  rw [← entriesOfLink_blocks]
  exact abandonContexts_shape (entriesOfLink_nodup L s) s

@[simp] theorem abandonLink_ports (L : Link) (s : State) : (abandonLink L s).ports = s.ports := by
  rw [abandonLink_shape]; rfl
@[simp] theorem abandonLink_sched (L : Link) (s : State) : (abandonLink L s).sched = s.sched := by
  rw [abandonLink_shape]; rfl
@[simp] theorem abandonLink_notices (L : Link) (s : State) : (abandonLink L s).notices = s.notices := by
  rw [abandonLink_shape]; rfl
@[simp] theorem abandonLink_readyQueue (L : Link) (s : State) :
    (abandonLink L s).table.readyQueue = s.table.readyQueue := by rw [abandonLink_shape]
@[simp] theorem abandonLink_quota (L : Link) (s : State) : (abandonLink L s).reasm.quota = s.reasm.quota := by
  rw [abandonLink_shape]

end Sys2Proof.Steps
end

section
/-! PROOFS. What an operation does that keeps every link sound: the relation `KeepsLinks`, of an operation that moves no
link to another state and takes no frame off its line, for the shared operations, the reassembly unit, the outbound
scheduler and the receivers (R7, R13, R63, R66, R103). -/

namespace Sys2Proof.Steps

open Sys2Proof.Machine Sys2Proof.Safety Sys2Proof.Statement

/-! ### The relation -/

/-- What a sound link says of its port alone. -/
structure PortSound (p : LinkPort) : Prop where
  receiver : p.receiver = .disabled ↔ p.state ≠ .run
  handedOver : p.state ≠ .run → p.handedOver = none
  handedFor : p.handedOver ≠ none → p.handedPeriods < Config.characterPeriods p.lineRate
  buffer : p.receiver ≠ .frame → p.rxBuffer = []
  bufferSize : p.rxBuffer.length ≤ 73
  control : p.state = .off → p.controlQueue = []
  offLine : p.state = .off → p.transmitter ≠ .active
  stopping : p.state = .stopping → p.transmitter = .active
  address : p.state ≠ .off → p.stationAddress ≠ 0

/-- Link `L` has a line record. -/
def Recorded (L : Link) (s : State) : Prop := (s.sch L).lineRecord ≠ none

/-- Link `L` has no context. -/
def Contextless (L : Link) (s : State) : Prop := ∀ e c, s.context e = some c → c.link ≠ L

theorem linkSound_iff {s : State} {L : Link} :
    LinkSound s L ↔ PortSound (s.port L) ∧ (Recorded L s → (s.port L).transmitter = .active) ∧
      ((s.port L).state = .off → Contextless L s) :=
  ⟨fun h => ⟨{ h with }, h.line, h.contexts⟩, fun ⟨h, line, contexts⟩ => { h with line, contexts }⟩

theorem PortSound.run {p : LinkPort} (h : PortSound p) (hr : p.receiver ≠ .disabled) : p.state = .run :=
  not_not.1 (mt h.receiver.2 hr)

/-- The links are sound and their contexts within the quotas. -/
structure LinksKept (s : State) : Prop where
  links : LinksSound s
  quota : QuotaKept s

theorem LinksKept.port {s : State} (h : LinksKept s) (L : Link) : PortSound (s.port L) :=
  (linkSound_iff.1 (h.links L)).1

/-- A port stays in its link state, takes no frame off the line, and stays sound. -/
structure PortKept (p q : LinkPort) : Prop where
  state : q.state = p.state
  active : p.transmitter = .active → q.transmitter = .active
  sound : PortSound p → PortSound q

/-- What an operation does that moves no link to another state and takes no frame off its line. -/
structure KeepsLinks (s t : State) : Prop where
  ports : ∀ L, PortKept (s.port L) (t.port L)
  lines : ∀ L, Recorded L t → Recorded L s ∨ (t.port L).transmitter = .active
  contexts : ∀ L, (s.port L).state = .off → Contextless L s → Contextless L t
  quota : QuotaKept s → QuotaKept t

theorem PortKept.refl (p : LinkPort) : PortKept p p := ⟨rfl, id, id⟩

theorem PortKept.trans {p q r : LinkPort} (h : PortKept p q) (k : PortKept q r) : PortKept p r :=
  ⟨k.state.trans h.state, k.active ∘ h.active, k.sound ∘ h.sound⟩

theorem KeepsLinks.refl (s : State) : KeepsLinks s s := ⟨fun _ => .refl _, fun _ => .inl, fun _ _ => id, id⟩

theorem KeepsLinks.trans {s t u : State} (h : KeepsLinks s t) (k : KeepsLinks t u) : KeepsLinks s u where
  ports L := (h.ports L).trans (k.ports L)
  lines L hu := by
    obtain ht | active := k.lines L hu
    · exact (h.lines L ht).imp_right (k.ports L).active
    · exact .inr active
  contexts L off none := k.contexts L ((h.ports L).state.trans off) (h.contexts L off none)
  quota := k.quota ∘ h.quota

/-- The same, last change first. -/
theorem KeepsLinks.after {s t u : State} (k : KeepsLinks t u) (h : KeepsLinks s t) : KeepsLinks s u := h.trans k

theorem KeepsLinks.run {s t : State} (h : KeepsLinks s t) {L : Link} (run : (s.port L).state = .run) :
    (t.port L).state = .run := (h.ports L).state.trans run

theorem KeepsLinks.kept {s t : State} (h : KeepsLinks s t) (k : LinksKept s) : LinksKept t where
  links L := by
    obtain ⟨port, line, contexts⟩ := linkSound_iff.1 (k.links L)
    refine linkSound_iff.2 ⟨(h.ports L).sound port, fun ht => ?_, fun off => ?_⟩
    · exact (h.lines L ht).elim (fun hs => (h.ports L).active (line hs)) id
    · have off : (s.port L).state = .off := (h.ports L).state.symm.trans off
      exact h.contexts L off (contexts off)
  quota := h.quota k.quota

theorem LinksKept.after {s t : State} (h : LinksKept s) (k : KeepsLinks s t) : LinksKept t := k.kept h

/-! ### Replacing one part of the state -/

/-- Every context that `t` has stands where `s` has one of the same link. -/
def FewerContexts (s t : State) : Prop := ∀ e c, t.context e = some c → (s.context e).map (·.link) = some c.link

theorem fewerContexts_of_same {s t : State} (h : t.reasm.contexts = s.reasm.contexts) : FewerContexts s t :=
  fun e c hc => by rw [State.context, h] at hc; rw [State.context, hc]; rfl

theorem FewerContexts.contextless {s t : State} (h : FewerContexts s t) {L : Link} (none : Contextless L s) :
    Contextless L t := fun e c hc hl => by
  obtain ⟨c', hc', same⟩ := Option.map_eq_some_iff.1 (h e c hc)
  exact none e c' hc' (same.trans hl)

theorem FewerContexts.quotaKept {s t : State} (h : FewerContexts s t) (quota : t.reasm.quota = s.reasm.quota)
    (k : QuotaKept s) : QuotaKept t := fun L => by
  rw [quota]
  refine le_trans (((entriesOfLink_nodup L t).subperm fun e he => ?_).length_le) (k L)
  obtain ⟨c, hc, rfl⟩ := Option.map_eq_some_iff.1 (mem_entriesOfLink.1 he)
  exact mem_entriesOfLink.2 (h e c hc)

/-- A change of neither the ports nor the line records, with no context added. -/
theorem keepsLinks_of_fewer {s t : State} (ports : t.ports = s.ports)
    (lines : ∀ L, Recorded L t → Recorded L s) (fewer : FewerContexts s t) (quota : t.reasm.quota = s.reasm.quota) :
    KeepsLinks s t where
  ports L := by rw [show t.port L = s.port L from congrArg (Table.look · L) ports]; exact .refl _
  lines L h := .inl (lines L h)
  contexts _ _ := fewer.contextless
  quota := fewer.quotaKept quota

theorem keepsLinks_of_same {s t : State} (ports : t.ports = s.ports) (sched : t.sched = s.sched)
    (reasm : t.reasm = s.reasm) : KeepsLinks s t :=
  keepsLinks_of_fewer ports (fun L => by rw [Recorded, State.sch, sched]; exact id)
    (fewerContexts_of_same (congrArg _ reasm)) (congrArg _ reasm)

theorem setPort_keepsLinks {L : Link} {p : LinkPort} {s : State} (h : PortKept (s.port L) p) :
    KeepsLinks s (s.setPort L p) where
  ports M := by
    rw [State.setPort_port]
    split
    · next hM => rwa [hM]
    · exact .refl _
  lines _ := .inl
  contexts _ _ := id
  quota := id

theorem setSch_keepsLinks {L : Link} {y : Scheduler} {s : State} (h : y.lineRecord ≠ none → Recorded L s) :
    KeepsLinks s (s.setSch L y) :=
  keepsLinks_of_fewer rfl (fun M hM => by
    rw [Recorded, State.setSch_sch] at hM
    split at hM
    · next same => exact same ▸ h hM
    · exact hM) (fewerContexts_of_same rfl) rfl

theorem setDesc_keepsLinks (d : DescNo) (x : Descriptor) (s : State) : KeepsLinks s (s.setDesc d x) :=
  keepsLinks_of_same rfl rfl rfl

theorem setContext_keepsLinks {e : EntryNo} {x : Option Context} {s : State}
    (h : ∀ c, x = some c → (s.context e).map (·.link) = some c.link) : KeepsLinks s (s.setContext e x) :=
  keepsLinks_of_fewer rfl (fun _ => id) (fun i c hc => by
    rw [State.setContext_context] at hc
    split at hc
    · next same => exact same ▸ h c hc
    · rw [hc]; rfl) rfl

/-- A link in RUN gets a context more while its quota has room for one (R63, R72). -/
theorem openContext_keepsLinks {L : Link} {e : EntryNo} {c : Context} {s : State} (hl : c.link = L)
    (run : (s.port L).state = .run) (room : s.contextCount L < s.reasm.quota.look L) :
    KeepsLinks s (s.setContext e (some c)) where
  ports _ := .refl _
  lines _ := .inl
  contexts M off none i c' hc' := by
    rw [State.setContext_context] at hc'
    split at hc'
    · cases hc'
      rintro rfl
      rw [hl, run] at off
      cases off
    · exact none i c' hc'
  quota k M := by
    have entries {i : EntryNo} (hi : i ∈ (s.setContext e (some c)).entriesOfLink M) :
        i = e ∧ c.link = M ∨ i ∈ s.entriesOfLink M := by
      rw [mem_entriesOfLink, State.setContext_context] at hi
      split at hi
      · next h => exact .inl ⟨h, Option.some.inj hi⟩
      · exact .inr (mem_entriesOfLink.2 hi)
    by_cases hM : c.link = M
    · have mine : M = L := hM.symm.trans hl
      subst mine
      have more := ((entriesOfLink_nodup M _).subperm (l₂ := e :: s.entriesOfLink M) fun i hi =>
        (entries hi).elim (fun h => h.1 ▸ List.mem_cons_self) (List.mem_cons_of_mem e)).length_le
      exact more.trans room
    · have same := ((entriesOfLink_nodup M _).subperm (l₂ := s.entriesOfLink M) fun i hi =>
        (entries hi).elim (fun h => absurd h.2 hM) id).length_le
      exact same.trans (k M)

/-! ### Shared operations -/

theorem recordNotice_keepsLinks (n : Notice) (s : State) : KeepsLinks s (recordNotice n s) := by
  rw [recordNotice_eq]
  exact keepsLinks_of_same rfl rfl rfl

theorem pool_keepsLinks (p : Pool) (s : State) : KeepsLinks s { s with pool := p } := keepsLinks_of_same rfl rfl rfl

theorem time_keepsLinks (x : TimeBase) (s : State) : KeepsLinks s { s with time := x } := keepsLinks_of_same rfl rfl rfl

theorem count_keepsLinks (L : Link) (c : CounterName) (s : State) : KeepsLinks s (count L c s) :=
  setPort_keepsLinks ⟨rfl, id, fun h => { h with }⟩

theorem setLoss_keepsLinks (L : Link) (s : State) : KeepsLinks s (setLoss L s) :=
  setPort_keepsLinks ⟨rfl, id, fun h => { h with }⟩

theorem clearHandedOver_keepsLinks (L : Link) (s : State) : KeepsLinks s (clearHandedOver L s) :=
  setPort_keepsLinks ⟨rfl, id, fun h => { h with handedOver := fun _ => rfl, handedFor := nofun }⟩

/-- Only a link in RUN makes requests (R97, R103). -/
theorem joinRequest_keepsLinks {L : Link} {s : State} (run : (s.port L).state = .run) (r : Request) :
    KeepsLinks s (joinRequest L r s) := by
  unfold joinRequest
  split
  · exact setPort_keepsLinks ⟨rfl, id, fun h => { h with control := fun off => absurd (run.symm.trans off) nofun }⟩
  · exact count_keepsLinks L _ s

theorem freeMessage_keepsLinks (d : DescNo) (s : State) : KeepsLinks s (freeMessage d s) :=
  keepsLinks_of_same rfl rfl rfl

theorem abandonContext_keepsLinks (e : EntryNo) (s : State) : KeepsLinks s (abandonContext e s) :=
  keepsLinks_of_fewer (by rw [abandonContext_shape]; rfl) (fun L h => by rw [abandonContext_shape] at h; exact h)
    (fun i c hc => by
      rw [abandonContext_context] at hc
      split at hc
      · cases hc
      · rw [hc]; rfl) (by rw [abandonContext_shape])

/-! ### The reassembly unit -/

section
variable {L : Link} {s : State} (run : (s.port L).state = .run)
include run

theorem answerFragment_keepsLinks (f : Fragment) (k : RequestKind) : KeepsLinks s (answerFragment L f k s) := by
  unfold answerFragment
  split
  · exact joinRequest_keepsLinks run _
  · exact .refl s

theorem dropNoContext_keepsLinks (f : Fragment) : KeepsLinks s (dropNoContext L f s) := by
  have counted := (count_keepsLinks L .noContextDrops s).trans (setLoss_keepsLinks L _)
  exact counted.trans (answerFragment_keepsLinks (counted.run run) f _)

theorem dropNoBlock_keepsLinks (f : Fragment) : KeepsLinks s (dropNoBlock L f s) := by
  have counted := (count_keepsLinks L .noBlockDrops s).trans (setLoss_keepsLinks L _)
  exact counted.trans (answerFragment_keepsLinks (counted.run run) f _)

theorem completeContext_keepsLinks {c : Context} (hl : c.link = L) (e : EntryNo) :
    KeepsLinks s (completeContext e c s) := by
  subst hl
  have completed (x : Descriptor) (q : List DescNo) (h : List Key) : KeepsLinks s
      ((((s.setDesc c.descriptor x).setReady c.link q).setContext e none).setHistory c.link h) :=
    keepsLinks_of_fewer rfl (fun _ => id) (fun i c' hc' => by
      replace hc' : (s.setContext e none).context i = some c' := hc'
      rw [State.setContext_context] at hc'
      split at hc'
      · cases hc'
      · rw [hc']; rfl) rfl
  simp only [completeContext]
  split
  · exact completed ..
  · exact (completed ..).trans (joinRequest_keepsLinks ((completed ..).run run) _)

/-- A fragment stored leaves its entry to its link, or completes its context. -/
theorem storeFragment_keepsLinks {e : EntryNo} {c : Context} (hl : c.link = L)
    (he : (s.context e).map (·.link) = some L) (f : Fragment) (b : Option BlockNo) :
    KeepsLinks s (storeFragment e c f b s) := by
  have stored : KeepsLinks s (State.setContext { s with pool := storedPool b f.payload s } e
      (some (contextWith c f b))) :=
    (setContext_keepsLinks (s := { s with pool := storedPool b f.payload s })
      fun _ h => by cases h; exact he.trans (congrArg some hl.symm)).after (keepsLinks_of_same rfl rfl rfl)
  rw [storeFragment_eq]
  dsimp only
  split
  · exact stored.trans (completeContext_keepsLinks (c := contextWith c f b) (stored.run run) hl e)
  · exact stored

/-- The first fragment of a message is stored in the context that it creates. -/
theorem createStored_keepsLinks (room : s.contextCount L < s.reasm.quota.look L) (e : EntryNo) (d : DescNo)
    (f : Fragment) (b : Option BlockNo) : KeepsLinks s (storeFragment e (newContext L f d s) f b s) := by
  have opened : KeepsLinks s (s.setContext e (some (newContext L f d s))) := openContext_keepsLinks rfl run room
  rw [← storeFragment_setContext (x := some (newContext L f d s))]
  refine opened.trans (storeFragment_keepsLinks (opened.run run) rfl ?_ f b)
  rw [State.setContext_context_self]
  rfl

theorem createContext_keepsLinks (f : Fragment) : KeepsLinks s (createContext L f s) := by
  unfold createContext
  split
  · exact dropNoContext_keepsLinks run f
  · split
    · next room =>
      split
      · exact dropNoContext_keepsLinks run f
      · next d _ hd =>
        obtain ⟨-, rfl⟩ := claimDescriptor_eq_some.1 hd
        refine (setDesc_keepsLinks d (assemblingRecord L f) s).trans ?_
        split
        · exact createStored_keepsLinks (by exact run) (by exact room) ..
        · split
          · exact (setDesc_keepsLinks d _ _).trans (dropNoBlock_keepsLinks (by exact run) f)
          · next hb =>
            obtain ⟨_, -, rfl⟩ := grantBlock_eq_some.1 (reassemblyClaim_eq_some.1 hb).2.2
            exact (pool_keepsLinks _ _).trans (createStored_keepsLinks (by exact run) (by exact room) ..)
    · exact dropNoContext_keepsLinks run f

theorem continueContext_keepsLinks {e : EntryNo} {c : Context} (hc : s.context e = some c) (hl : c.link = L)
    (f : Fragment) : KeepsLinks s (continueContext L e c f s) := by
  have held : (s.context e).map (·.link) = some L := by rw [hc]; exact congrArg some hl
  unfold continueContext
  split
  · exact count_keepsLinks L _ s
  · split
    · exact (abandonContext_keepsLinks e s).trans (recordNotice_keepsLinks _ _)
    · split
      · exact storeFragment_keepsLinks run hl held f none
      · split
        · exact dropNoBlock_keepsLinks run f
        · next b _ hb =>
          obtain ⟨_, -, rfl⟩ := grantBlock_eq_some.1 (reassemblyClaim_eq_some.1 hb).2.2
          exact (pool_keepsLinks _ s).trans (storeFragment_keepsLinks (by exact run) hl (by exact held) f (some b))

theorem takeFragment_keepsLinks (f : Fragment) : KeepsLinks s (takeFragment L f s) := by
  unfold takeFragment
  split
  · have counted := count_keepsLinks L .duplicateMessages s
    exact counted.trans (answerFragment_keepsLinks (counted.run run) f _)
  · split
    · exact createContext_keepsLinks run f
    · next he =>
      obtain ⟨c, hc, hl, -⟩ := findContext_eq_some he
      simp only [hc]
      exact continueContext_keepsLinks run hc hl f

end

theorem takeHandedFragment_keepsLinks (L : Link) (s : State) : KeepsLinks s (takeHandedFragment L s) := by
  unfold takeHandedFragment
  split
  · split
    · next run =>
      have cleared := clearHandedOver_keepsLinks L s
      exact cleared.trans (takeFragment_keepsLinks (cleared.run run) _)
    · exact .refl s
  · exact .refl s

theorem lifetimeExpiry_keepsLinks (e : EntryNo) (s : State) : KeepsLinks s (lifetimeExpiry e s) := by
  obtain h | ⟨c, -, -, h⟩ := lifetimeExpiry_eq e s <;> rw [h]
  · exact .refl s
  · exact (abandonContext_keepsLinks e s).trans (recordNotice_keepsLinks _ _)

/-! ### The outbound scheduler -/

theorem dropFromLine_ne_none {d : DescNo} {r : Option LineRecord} : dropFromLine d r ≠ none ↔ r ≠ none := by
  simp [dropFromLine]

theorem endOutbound_keepsLinks (L : Link) (d : DescNo) (s : State) : KeepsLinks s (endOutbound L d s) :=
  (freeMessage_keepsLinks d _).after (setSch_keepsLinks dropFromLine_ne_none.1)

theorem finishDone_keepsLinks (L : Link) (d : DescNo) (s : State) : KeepsLinks s (finishDone L d s) := by
  rw [finishDone_eq]
  exact (endOutbound_keepsLinks L d _).after (keepsLinks_of_same rfl rfl rfl)

theorem finishFailed_keepsLinks (L : Link) (d : DescNo) (r : FailReason) (s : State) :
    KeepsLinks s (finishFailed L d r s) := (recordNotice_keepsLinks _ s).trans (endOutbound_keepsLinks L d _)

/-- A message waits to be acknowledged or sent again: its descriptor changes, and its line record only loses it. -/
theorem setDesc_setSch_keepsLinks {L : Link} {s : State} (d : DescNo) (x : Descriptor) {y : Scheduler}
    (h : y.lineRecord ≠ none → Recorded L s) : KeepsLinks s ((s.setDesc d x).setSch L y) :=
  (setDesc_keepsLinks d x s).trans (setSch_keepsLinks h)

theorem enterBackoff_keepsLinks (L : Link) (d : DescNo) (s : State) : KeepsLinks s (enterBackoff L d s) :=
  setDesc_setSch_keepsLinks d _ dropFromLine_ne_none.1

theorem enterResend_keepsLinks (L : Link) (d : DescNo) (s : State) : KeepsLinks s (enterResend L d s) :=
  setDesc_setSch_keepsLinks d _ dropFromLine_ne_none.1

theorem takeHandedAck_keepsLinks (L : Link) (s : State) : KeepsLinks s (takeHandedAck L s) := by
  unfold takeHandedAck takeAck
  split
  · refine (clearHandedOver_keepsLinks L s).trans ?_
    split
    · exact finishDone_keepsLinks L _ _
    · exact count_keepsLinks L _ _
  · exact .refl s

theorem takeHandedRefuse_keepsLinks (L : Link) (s : State) : KeepsLinks s (takeHandedRefuse L s) := by
  unfold takeHandedRefuse takeRefuse
  split
  · refine (clearHandedOver_keepsLinks L s).trans ?_
    split
    · split
      · split
        · exact enterBackoff_keepsLinks L _ _
        · exact finishFailed_keepsLinks L _ _ _
      · exact count_keepsLinks L _ _
    · exact count_keepsLinks L _ _
  · exact .refl s

theorem takeHandedOver_keepsLinks (L : Link) (s : State) : KeepsLinks s (takeHandedOver L s) :=
  (takeHandedFragment_keepsLinks L s).trans ((takeHandedAck_keepsLinks L _).trans (takeHandedRefuse_keepsLinks L _))

theorem ackWaitExpiry_keepsLinks (d : DescNo) (s : State) : KeepsLinks s (ackWaitExpiry d s) := by
  obtain h | ⟨-, -, h⟩ := ackWaitExpiry_eq d s <;> rw [h]
  · exact .refl s
  · simp only [expireWait]
    split
    · exact enterResend_keepsLinks _ d s
    · exact finishFailed_keepsLinks _ d _ s

theorem backoffExpiry_keepsLinks (d : DescNo) (s : State) : KeepsLinks s (backoffExpiry d s) := by
  obtain h | ⟨-, -, h⟩ := backoffExpiry_eq d s <;> rw [h]
  · exact .refl s
  · exact enterResend_keepsLinks _ d s

/-! ### The receivers -/

theorem handOffPeriod_keepsLinks (L : Link) (s : State) : KeepsLinks s (handOffPeriod L s) := by
  unfold handOffPeriod
  split
  · exact .refl s
  · split
    · next counted => exact setPort_keepsLinks ⟨rfl, id, fun h => { h with handedFor := fun _ => counted }⟩
    · exact takeHandedOver_keepsLinks L s

theorem receiving_iff {L : Link} {s : State} {p : RxProgress} :
    s.receiving L p = true ↔ (s.port L).receiver = .frame ∧ rxProgress (s.port L).rxBuffer = p := by
  simp [State.receiving]

/-- A receiver at work, with an empty buffer outside FRAME and a short one in it, is that of a link in RUN. -/
theorem receiving_keepsLinks {L : Link} {s : State} {q : LinkPort} (same : SameOutside (s.port L) q)
    (handed : q.handedOver = (s.port L).handedOver ∧ q.handedPeriods = (s.port L).handedPeriods)
    (before : (s.port L).receiver ≠ .disabled) (after : q.receiver ≠ .disabled)
    (empty : q.receiver ≠ .frame → q.rxBuffer = []) (short : q.rxBuffer.length ≤ 73) :
    KeepsLinks s (s.setPort L q) :=
  setPort_keepsLinks
    { state := same.state
      active := fun h => same.transmitter.trans h
      sound := fun h =>
        { receiver := iff_of_false after (not_not.2 (same.state.trans (h.run before)))
          handedOver := by rw [same.state, handed.1]; exact h.handedOver
          handedFor := by rw [handed.1, handed.2, same.lineRate]; exact h.handedFor
          buffer := empty
          bufferSize := short
          control := by rw [same.state, same.controlQueue]; exact h.control
          offLine := by rw [same.state, same.transmitter]; exact h.offLine
          stopping := by rw [same.state, same.transmitter]; exact h.stopping
          address := by rw [same.state, same.stationAddress]; exact h.address } }

theorem discardToSettling_keepsLinks {L : Link} {s : State} (h : (s.port L).receiver ≠ .disabled) :
    KeepsLinks s (discardToSettling L s) := by
  simp only [discardToSettling, count_eq, setReceiver_eq, restartGap_eq, State.setPort_setPort, State.setPort_port_self]
  exact receiving_keepsLinks ⟨rfl, rfl, rfl, rfl, rfl, rfl, rfl, rfl, rfl⟩ ⟨rfl, rfl⟩ h nofun (fun _ => rfl)
    (Nat.zero_le _)

theorem discardOversized_keepsLinks (L : Link) (s : State) : KeepsLinks s (discardOversized L s) := by
  unfold discardOversized
  split
  · next h => exact discardToSettling_keepsLinks (by rw [(receiving_iff.1 h).1]; exact nofun)
  · exact .refl s

/-- A complete frame leaves the receiver hunting; a frame handed over waits anew (R13). -/
theorem completeFrame_keepsLinks {L : Link} {s : State} (h : (s.port L).receiver ≠ .disabled) :
    KeepsLinks s (completeFrame L s) := by
  have hunts {q : LinkPort} (same : SameOutside (s.port L) q)
      (handed : q.handedOver = (s.port L).handedOver ∧ q.handedPeriods = (s.port L).handedPeriods)
      (receiver : q.receiver = .hunt) (buffer : q.rxBuffer = []) : KeepsLinks s (s.setPort L q) :=
    receiving_keepsLinks same handed h (by rw [receiver]; exact nofun) (fun _ => buffer)
      (by rw [buffer]; exact Nat.zero_le _)
  unfold completeFrame
  split
  · simp only [count_eq, setReceiver_eq, State.setPort_setPort, State.setPort_port_self]
    exact hunts ⟨rfl, rfl, rfl, rfl, rfl, rfl, rfl, rfl, rfl⟩ ⟨rfl, rfl⟩ rfl rfl
  · simp only [count_eq, setReceiver_eq, State.setPort_setPort, State.setPort_port_self]
    exact hunts ⟨rfl, rfl, rfl, rfl, rfl, rfl, rfl, rfl, rfl⟩ ⟨rfl, rfl⟩ rfl rfl
  · exact hunts ⟨rfl, rfl, rfl, rfl, rfl, rfl, rfl, rfl, rfl⟩ ⟨rfl, rfl⟩ rfl rfl
  · exact setPort_keepsLinks ⟨rfl, id, fun k => { k with
      receiver := iff_of_false nofun (not_not.2 (k.run h))
      handedOver := fun stopped => absurd (k.run h) stopped
      handedFor := fun _ => by simp [Config.characterPeriods, Config.bitPeriods]
      buffer := fun _ => rfl
      bufferSize := Nat.zero_le _ }⟩

/-- The taking of a handed-over frame leaves the receiver of its link as it is. -/
theorem takeHandedOver_port (L : Link) (s : State) : ∃ handed counters queue loss,
    (takeHandedOver L s).port L = { s.port L with
      handedOver := handed, counters := counters, controlQueue := queue, lossIndicator := loss } := by
  obtain ⟨h, c, q, l, ports⟩ := (takeHandedOver_handOff L s).ports
  exact ⟨h, c, q, l, by rw [State.port, ports, Table.look_put_self]⟩

theorem finishFrame_keepsLinks (L : Link) (s : State) : KeepsLinks s (finishFrame L s) := by
  unfold finishFrame
  split
  · next h =>
    refine (takeHandedOver_keepsLinks L s).trans (completeFrame_keepsLinks ?_)
    obtain ⟨_, _, _, _, port⟩ := takeHandedOver_port L s
    rw [port]
    dsimp only
    rw [(receiving_iff.1 h).1]
    exact nofun
  · exact .refl s

theorem concludeFrame_keepsLinks (L : Link) (s : State) : KeepsLinks s (concludeFrame L s) :=
  (finishFrame_keepsLinks L s).trans (discardOversized_keepsLinks L _)

theorem completeFrame_receiver (L : Link) (s : State) : ((completeFrame L s).port L).receiver = .hunt := by
  unfold completeFrame
  split <;> simp [count_eq]

/-- A receiver that is in FRAME after the end of a frame that was due has an incomplete frame (R8). -/
theorem concludeFrame_unfinished {L : Link} {s : State} (h : ((concludeFrame L s).port L).receiver = .frame) :
    rxProgress ((concludeFrame L s).port L).rxBuffer = .unfinished := by
  revert h
  unfold concludeFrame
  generalize ht : finishFrame L s = t
  unfold discardOversized
  split
  · simp [discardToSettling, count_eq]
  · next small =>
    intro frame
    cases hp : rxProgress (t.port L).rxBuffer with
    | unfinished => rfl
    | oversized => exact absurd (receiving_iff.2 ⟨frame, hp⟩) small
    | complete =>
      have whole : t.receiving L .complete = true := receiving_iff.2 ⟨frame, hp⟩
      unfold finishFrame at ht
      split at ht
      · rw [← ht, completeFrame_receiver] at frame
        cases frame
      · next incomplete => exact absurd (ht ▸ whole) incomplete

theorem unfinished_length {bytes : List Byte} (h : rxProgress bytes = .unfinished) : bytes.length ≤ 72 := by
  obtain short | ⟨small, short⟩ := rxProgress_eq_unfinished.1 h <;> omega

theorem hearCharacter_keepsLinks {L : Link} {s : State}
    (due : (s.port L).receiver = .frame → rxProgress (s.port L).rxBuffer = .unfinished) (b : Byte) :
    KeepsLinks s (hearCharacter L b s) := by
  unfold hearCharacter
  split
  · exact .refl s
  · exact setPort_keepsLinks ⟨rfl, id, fun h => { h with }⟩
  · next hunt =>
    split
    · simp only [setReceiver_eq, restartGap_eq, State.setPort_setPort, State.setPort_port_self]
      exact receiving_keepsLinks ⟨rfl, rfl, rfl, rfl, rfl, rfl, rfl, rfl, rfl⟩ ⟨rfl, rfl⟩ (by rw [hunt]; exact nofun)
        nofun
        (fun h => absurd rfl h) (by simp)
    · exact .refl s
  · next frame =>
    simp only [setReceiver_eq, restartGap_eq, State.setPort_setPort, State.setPort_port_self]
    exact receiving_keepsLinks ⟨rfl, rfl, rfl, rfl, rfl, rfl, rfl, rfl, rfl⟩ ⟨rfl, rfl⟩ (by rw [frame]; exact nofun)
      nofun
      (fun h => absurd rfl h) (by simpa [Nat.lt_succ_iff] using unfinished_length (due frame))

theorem receiveCharacter_keepsLinks (L : Link) (b : Byte) (s : State) : KeepsLinks s (receiveCharacter L b s) :=
  (concludeFrame_keepsLinks L s).trans (hearCharacter_keepsLinks concludeFrame_unfinished b)

theorem hearError_keepsLinks (L : Link) (s : State) : KeepsLinks s (hearError L s) := by
  unfold hearError
  split
  · next frame => exact discardToSettling_keepsLinks (by rw [frame]; exact nofun)
  · exact setPort_keepsLinks ⟨rfl, id, fun h => { h with }⟩
  all_goals exact .refl s

theorem receiveError_keepsLinks (L : Link) (s : State) : KeepsLinks s (receiveError L s) :=
  (concludeFrame_keepsLinks L s).trans (hearError_keepsLinks L _)

theorem endSettling_keepsLinks (L : Link) (s : State) : KeepsLinks s (endSettling L s) := by
  unfold endSettling
  split
  · next settling =>
    refine setPort_keepsLinks ⟨rfl, id, fun h => ?_⟩
    exact { h with
      receiver := iff_of_false nofun (not_not.2 (h.run (by rw [settling]; exact nofun)))
      buffer := fun _ => h.buffer (by rw [settling]; exact nofun) }
  · exact .refl s

theorem truncateFrame_keepsLinks (L : Link) (s : State) : KeepsLinks s (truncateFrame L s) := by
  unfold truncateFrame
  split
  · next h =>
    simp only [discardToHunt, count_eq, setReceiver_eq, State.setPort_setPort, State.setPort_port_self]
    exact receiving_keepsLinks ⟨rfl, rfl, rfl, rfl, rfl, rfl, rfl, rfl, rfl⟩ ⟨rfl, rfl⟩
      (by rw [(receiving_iff.1 h).1]; exact nofun) nofun (fun _ => rfl) (Nat.zero_le _)
  · exact .refl s

theorem restartGap_keepsLinks (L : Link) (n : Nat) (s : State) : KeepsLinks s (restartGap L n s) :=
  setPort_keepsLinks ⟨rfl, id, fun h => { h with }⟩

theorem countIdle_keepsLinks (L : Link) (s : State) : KeepsLinks s (countIdle L s) := by
  unfold countIdle
  split
  · exact (restartGap_keepsLinks L 0 s).trans ((endSettling_keepsLinks L _).trans (truncateFrame_keepsLinks L _))
  · exact restartGap_keepsLinks L _ s

theorem takeLineEvent_keepsLinks (L : Link) (s : State) (e : Option LineEvent) :
    KeepsLinks s (takeLineEvent L s e) := by
  unfold takeLineEvent
  split
  · exact receiveCharacter_keepsLinks L _ s
  · exact receiveError_keepsLinks L s
  · exact .refl s

theorem receiverPeriod_keepsLinks (L : Link) (s : State) : KeepsLinks s (receiverPeriod L s) := by
  have sampled (n : Nat) (x : Sampler) : KeepsLinks s (s.setPort L { s.port L with sampleCount := n, sampler := x }) :=
    setPort_keepsLinks ⟨rfl, id, fun h => { h with }⟩
  unfold receiverPeriod
  split
  · exact sampled _ _
  · simp only [sampleReceiver]
    refine (concludeFrame_keepsLinks L _).after ?_
    split
    · exact (countIdle_keepsLinks L _).after (sampled _ _)
    · exact (takeLineEvent_keepsLinks L _ _).after (sampled _ _)

end Sys2Proof.Steps
end

section
/-! PROOFS. The operations that move a link to another state or take a frame off its line: frame start and end, LINK
START, LINK STOP and LINK RESET, and the settings (R16, R18 to R21, R184). -/

namespace Sys2Proof.Steps

open Sys2Proof.Machine Sys2Proof.Safety Sys2Proof.Statement

/-! ### Frame start (R14) -/

theorem takeOffer_ports (L : Link) (o : Offer) (s : State) : (takeOffer L o s).ports = s.ports := by cases o <;> rfl

theorem takeOffer_sch_of_ne {L M : Link} (h : M ≠ L) (o : Offer) (s : State) : (takeOffer L o s).sch M = s.sch M := by
  cases o <;> simp [takeOffer, setLine, beginResend, beginQueued, State.setSch_sch, h]

theorem takeOffer_reasm (L : Link) (o : Offer) (s : State) : (takeOffer L o s).reasm = s.reasm := by cases o <;> rfl

/-- A link in RUN puts a frame on its line. -/
theorem portKept_active {p : LinkPort} (run : p.state = .run) (bytes : List Byte) (queue : List Request) :
    PortKept p { p with transmitter := .active, txPeriods := 0, txBuffer := bytes, controlQueue := queue } where
  state := rfl
  active _ := rfl
  sound h := { h with
    control := fun off => absurd (run.symm.trans off) nofun
    offLine := fun off => absurd (run.symm.trans off) nofun
    stopping := fun _ => rfl }

theorem takeFrameStart_keepsLinks (L : Link) (s : State) : KeepsLinks s (takeFrameStart L s) := by
  unfold takeFrameStart startFrame
  split
  · next ready =>
    obtain ⟨run, -⟩ := ready
    split
    · next r rest _ =>
      simp only [startControl, beginFrame, State.setPort_setPort, State.setPort_port_self]
      exact setPort_keepsLinks (portKept_active run _ rest)
    · split
      · next o _ =>
        have port (M : Link) : (takeOffer L o s).port M = s.port M := congrArg (Table.look · M) (takeOffer_ports L o s)
        exact
          { ports := fun M => by
              rw [startData, beginFrame, State.setPort_port, port, port]
              split
              · next hM => exact hM ▸ portKept_active run _ (s.port L).controlQueue
              · exact .refl _
            lines := fun M hM => by
              by_cases same : M = L
              · exact .inr (by simp [startData, beginFrame, same])
              · exact .inl (by rw [Recorded, ← takeOffer_sch_of_ne same o s]; exact hM)
            contexts := fun _ _ => (fewerContexts_of_same (congrArg _ (takeOffer_reasm L o s))).contextless
            quota := (fewerContexts_of_same (congrArg _ (takeOffer_reasm L o s))).quotaKept
              (congrArg _ (takeOffer_reasm L o s)) }
      · exact .refl s
  · exact .refl s

/-! ### Changes of one link -/

/-- What an operation of link `L` does that adds no context: other links keep their ports and get no line record. -/
structure ChangesLink (L : Link) (s t : State) : Prop where
  port : ∀ M, M ≠ L → t.port M = s.port M
  line : ∀ M, M ≠ L → Recorded M t → Recorded M s
  fewer : FewerContexts s t
  quota : t.reasm.quota = s.reasm.quota

theorem ChangesLink.trans {L : Link} {s t u : State} (h : ChangesLink L s t) (k : ChangesLink L t u) :
    ChangesLink L s u where
  port M hM := (k.port M hM).trans (h.port M hM)
  line M hM := h.line M hM ∘ k.line M hM
  fewer e c hc := by
    obtain ⟨c', hc', hl⟩ := Option.map_eq_some_iff.1 (k.fewer e c hc)
    exact hl ▸ h.fewer e c' hc'
  quota := k.quota.trans h.quota

/-- When the link changed is sound, all are. -/
theorem ChangesLink.kept {L : Link} {s t : State} (h : ChangesLink L s t) (k : LinksKept s) (sound : LinkSound t L) :
    LinksKept t where
  links M := by
    by_cases hM : M = L
    · exact hM ▸ sound
    · obtain ⟨port, line, contexts⟩ := linkSound_iff.1 (k.links M)
      rw [← h.port M hM] at port line contexts
      exact linkSound_iff.2 ⟨port, fun ht => line (h.line M hM ht), fun off => h.fewer.contextless (contexts off)⟩
  quota := h.fewer.quotaKept h.quota k.quota

theorem changesLink_of_same {L : Link} {s t : State} (ports : t.ports = s.ports)
    (sched : ∀ M, M ≠ L → t.sch M = s.sch M) (reasm : t.reasm = s.reasm) : ChangesLink L s t where
  port M _ := congrArg (Table.look · M) ports
  line M hM := by rw [Recorded, sched M hM]; exact id
  fewer := fewerContexts_of_same (congrArg _ reasm)
  quota := congrArg _ reasm

theorem setPort_changesLink (L : Link) (p : LinkPort) (s : State) : ChangesLink L s (s.setPort L p) where
  port M hM := by rw [State.setPort_port, if_neg hM]
  line _ _ := id
  fewer := fewerContexts_of_same rfl
  quota := rfl

theorem setSch_changesLink (L : Link) (y : Scheduler) (s : State) : ChangesLink L s (s.setSch L y) :=
  changesLink_of_same rfl (fun M hM => by rw [State.setSch_sch, if_neg hM]) rfl

theorem recordNotice_changesLink (L : Link) (n : Notice) (s : State) : ChangesLink L s (recordNotice n s) := by
  rw [recordNotice_eq]
  exact changesLink_of_same rfl (fun _ _ => rfl) rfl

theorem abandonLink_changesLink (L : Link) (s : State) : ChangesLink L s (abandonLink L s) where
  port M _ := congrArg (Table.look · M) (abandonLink_ports L s)
  line M _ := by rw [Recorded, State.sch, abandonLink_sched]; exact id
  fewer e c hc := by
    rw [abandonLink_context] at hc
    split at hc
    · cases hc
    · rw [hc]; rfl
  quota := abandonLink_quota L s

theorem abandonLink_contextless (L : Link) (s : State) : Contextless L (abandonLink L s) := by
  intro e c hc hl
  rw [abandonLink_context] at hc
  split at hc
  · cases hc
  · next other => exact other (by rw [hc]; exact congrArg some hl)

/-! ### The report of a frame end (R16, R151) -/

theorem endOutbound_sch_of_ne {L M : Link} (h : M ≠ L) (d : DescNo) (s : State) :
    (endOutbound L d s).sch M = s.sch M := by
  rw [endOutbound_eq, State.setSch_sch, if_neg h]
  rfl

theorem finishDone_ports (L : Link) (d : DescNo) (s : State) : (finishDone L d s).ports = s.ports := by
  rw [finishDone_eq]
  rfl

theorem finishDone_sch_of_ne {L M : Link} (h : M ≠ L) (d : DescNo) (s : State) :
    (finishDone L d s).sch M = s.sch M := by
  rw [finishDone_eq, endOutbound_sch_of_ne h]
  rfl

theorem fragmentSent_ports (L : Link) (d : DescNo) (n : Nat) (s : State) : (fragmentSent L d n s).ports = s.ports := by
  unfold fragmentSent
  split
  · rfl
  · split
    · exact finishDone_ports L d s
    · rfl

theorem fragmentSent_sch_of_ne {L M : Link} (h : M ≠ L) (d : DescNo) (n : Nat) (s : State) :
    (fragmentSent L d n s).sch M = s.sch M := by
  unfold fragmentSent
  split
  · rfl
  · split
    · exact finishDone_sch_of_ne h d s
    · rfl

/-- The report of a frame end: the message on the line moves on, when it is still SENDING, and the line is clear. -/
theorem reportFrameEnd_eq (L : Link) (s : State) :
    reportFrameEnd L s = clearLine L s ∨ ∃ n d, (s.sch L).lineRecord = some ⟨n, some d⟩ ∧
      (s.desc d).state = .sending ∧ reportFrameEnd L s = clearLine L (fragmentSent L d n s) := by
  unfold reportFrameEnd
  split
  · next n d h =>
    split
    · next hs => exact .inr ⟨n, d, h, hs, rfl⟩
    · exact .inl rfl
  · exact .inl rfl

theorem reportFrameEnd_ports (L : Link) (s : State) : (reportFrameEnd L s).ports = s.ports := by
  obtain h | ⟨n, d, -, -, h⟩ := reportFrameEnd_eq L s <;> rw [h]
  · rfl
  · exact fragmentSent_ports L d n s

theorem reportFrameEnd_line (L : Link) (s : State) : ((reportFrameEnd L s).sch L).lineRecord = none := by
  obtain h | ⟨n, d, -, -, h⟩ := reportFrameEnd_eq L s <;> rw [h] <;> simp [clearLine]

theorem reportFrameEnd_changesLink (L : Link) (s : State) : ChangesLink L s (reportFrameEnd L s) := by
  refine changesLink_of_same (reportFrameEnd_ports L s) (fun M hM => ?_) (reportFrameEnd_reasm L s)
  obtain h | ⟨n, d, -, -, h⟩ := reportFrameEnd_eq L s <;> rw [h, clearLine, State.setSch_sch, if_neg hM]
  exact fragmentSent_sch_of_ne hM d n s

/-! ### The entry to OFF (R20) -/

theorem finishFailed_ports (L : Link) (d : DescNo) (r : FailReason) (s : State) :
    (finishFailed L d r s).ports = s.ports := by
  rw [finishFailed, recordNotice_eq]
  rfl

theorem stopSending_ports (L : Link) (s : State) : (stopSending L s).ports = s.ports := by
  unfold stopSending
  split
  · split
    · rfl
    · exact finishFailed_ports ..
  · rfl

theorem stopSending_changesLink (L : Link) (s : State) : ChangesLink L s (stopSending L s) := by
  refine changesLink_of_same (stopSending_ports L s) (fun M hM => ?_) (stopSending_reasm L s)
  unfold stopSending
  split
  · split
    · rw [enterResend, State.setSch_sch, if_neg hM]
      rfl
    · rw [finishFailed, endOutbound_sch_of_ne hM, recordNotice_eq]
      rfl
  · rfl

/-- The port of a link that has entered OFF. -/
def offPort (p : LinkPort) : LinkPort := { p with state := .off, controlQueue := [] }

theorem enterOff_eq (L : Link) (s : State) :
    enterOff L s = recordNotice ⟨L, s.now, .linkStopped (contextsOf L s)⟩
      (suspendDeadlines L (stopSending L ((abandonLink L s).setPort L (offPort (s.port L))))) := by
  have port : (abandonLink L s).port L = s.port L := congrArg (Table.look · L) (abandonLink_ports L s)
  have now : (suspendDeadlines L (stopSending L ((abandonLink L s).setPort L (offPort (s.port L))))).now = s.now :=
    congrArg TimeBase.tickCounter ((stopSending_linkFrame L _).time.trans (abandonContexts_linkFrame _ s).time)
  rw [← now, ← contextCount_eq_contextsOf, ← port]
  rfl

theorem enterOff_port (L : Link) (s : State) : (enterOff L s).port L = offPort (s.port L) := by
  rw [enterOff_eq, recordNotice_eq]
  refine (congrArg (Table.look · L) (stopSending_ports L _)).trans ?_
  exact State.setPort_port_self ..

theorem enterOff_reasm (L : Link) (s : State) : (enterOff L s).reasm = (abandonLink L s).reasm := by
  rw [enterOff_eq, recordNotice_reasm, suspendDeadlines, stopSending_reasm, State.setPort_reasm]

theorem suspendDeadlines_changesLink (L : Link) (s : State) : ChangesLink L s (suspendDeadlines L s) :=
  changesLink_of_same rfl (fun _ _ => rfl) rfl

theorem enterOff_changesLink (L : Link) (s : State) : ChangesLink L s (enterOff L s) := by
  rw [enterOff_eq]
  exact (abandonLink_changesLink L s).trans ((setPort_changesLink L _ _).trans
    ((stopSending_changesLink L _).trans ((suspendDeadlines_changesLink L _).trans (recordNotice_changesLink L _ _))))

/-- A stopped message leaves a link without a line record as it is. -/
theorem enterOff_not_recorded {L : Link} {s : State} (h : ¬ Recorded L s) : ¬ Recorded L (enterOff L s) := by
  rw [enterOff_eq, recordNotice_eq]
  intro recorded
  have stopped : Recorded L (stopSending L ((abandonLink L s).setPort L (offPort (s.port L)))) := recorded
  have quiet : ¬ Recorded L ((abandonLink L s).setPort L (offPort (s.port L))) := by
    rw [Recorded, State.setPort_sch, State.sch, abandonLink_sched]
    exact h
  unfold stopSending at stopped
  split at stopped
  · split at stopped
    · rw [Recorded, enterResend, State.setSch_sch_self] at stopped
      exact quiet (dropFromLine_ne_none.1 stopped)
    · rw [Recorded, finishFailed, endOutbound_eq, State.setSch_sch_self, recordNotice_eq] at stopped
      exact quiet (dropFromLine_ne_none.1 stopped)
  · exact quiet stopped

/-- A link whose receiver is disabled and whose line is clear is sound in OFF. -/
theorem enterOff_linkSound {L : Link} {s : State} (receiver : (s.port L).receiver = .disabled)
    (buffer : (s.port L).rxBuffer = []) (handed : (s.port L).handedOver = none)
    (line : (s.port L).transmitter ≠ .active) (clear : ¬ Recorded L s) : LinkSound (enterOff L s) L := by
  rw [linkSound_iff, enterOff_port]
  refine ⟨?_, fun recorded => absurd recorded (enterOff_not_recorded clear), fun _ e c hc => ?_⟩
  · exact
      { receiver := iff_of_true receiver nofun
        handedOver := fun _ => handed
        handedFor := fun h => absurd handed h
        buffer := fun _ => buffer
        bufferSize := (congrArg List.length buffer).trans_le (Nat.zero_le _)
        control := fun _ => rfl
        offLine := fun _ => line
        stopping := nofun
        address := fun h => absurd rfl h }
  · rw [State.context, enterOff_reasm] at hc
    exact abandonLink_contextless L s e c hc

/-! ### Frame end, LINK START, LINK STOP and LINK RESET -/

theorem endFrame_linksKept {s : State} (h : LinksKept s) {L : Link} (active : (s.port L).transmitter = .active) :
    LinksKept (endFrame L s) := by
  let t := reportFrameEnd L (enterGap L s)
  have changed : ChangesLink L s t := (setPort_changesLink L _ s).trans (reportFrameEnd_changesLink L _)
  have sound := h.port L
  have port : t.port L = { s.port L with transmitter := .gap, txPeriods := 0, txBuffer := [] } :=
    (congrArg (Table.look · L) (reportFrameEnd_ports L _)).trans (State.setPort_port_self ..)
  have clear : ¬ Recorded L t := not_not.2 (reportFrameEnd_line L _)
  show LinksKept (if (t.port L).state = .stopping then enterOff L t else t)
  split
  · next stopping =>
    have stopping : (s.port L).state = .stopping := by rw [port] at stopping; exact stopping
    have disabled : (s.port L).receiver = .disabled := sound.receiver.2 (by rw [stopping]; exact nofun)
    refine (changed.trans (enterOff_changesLink L t)).kept h (enterOff_linkSound ?_ ?_ ?_ ?_ clear) <;> rw [port]
    · exact disabled
    · exact sound.buffer (by rw [disabled]; exact nofun)
    · exact sound.handedOver (by rw [stopping]; exact nofun)
    · exact nofun
  · next running =>
    refine changed.kept h (linkSound_iff.2 ⟨?_, fun recorded => absurd recorded clear, fun off => ?_⟩)
    · rw [port] at running ⊢
      exact { sound with offLine := fun _ => nofun, stopping := fun stopping => absurd stopping running }
    · rw [port] at off
      exact absurd active (sound.offLine off)

theorem transmitterPeriod_linksKept {s : State} (h : LinksKept s) (L : Link) : LinksKept (transmitterPeriod L s) := by
  unfold transmitterPeriod
  split
  · next active =>
    unfold sendPeriod
    split
    · have sent : PortKept (s.port L) { s.port L with txPeriods := (s.port L).txPeriods + 1 } :=
        ⟨rfl, id, fun k => { k with }⟩
      exact (setPort_keepsLinks sent).kept h
    · exact endFrame_linksKept h active
  · next gap =>
    have measured : PortKept (s.port L) (measureGap (s.port L)) := by
      unfold measureGap
      split
      · exact ⟨rfl, id, fun k => { k with }⟩
      · exact ⟨rfl, fun active => absurd (gap.symm.trans active) nofun, fun k => { k with
          offLine := fun _ => nofun
          stopping := fun stopping => absurd (gap.symm.trans (k.stopping stopping)) nofun }⟩
    exact (setPort_keepsLinks measured).kept h
  · exact (takeFrameStart_keepsLinks L s).kept h

theorem gapEnded_linksKept {s : State} (h : LinksKept s) (L : Link) :
    LinksKept (if (s.port L).transmitter = .gap ∧ s.host.resetLow = false then enterIdle L s else s) := by
  split
  · next gap =>
    have idle : PortKept (s.port L) { s.port L with transmitter := .idle, txPeriods := 0 } :=
      ⟨rfl, fun active => absurd (gap.1.symm.trans active) nofun, fun k => { k with
        offLine := fun _ => nofun
        stopping := fun stopping => absurd (gap.1.symm.trans (k.stopping stopping)) nofun }⟩
    exact (setPort_keepsLinks idle).kept h
  · exact h

theorem startLink_linksKept {s : State} (h : LinksKept s) {L : Link} (off : (s.port L).state = .off)
    (address : (s.port L).stationAddress ≠ 0) : LinksKept (startLink L s) := by
  let p : LinkPort := { s.port L with
    state := .run, receiver := .settling, rxBuffer := [], idleLeft := Config.gapSamples }
  have started : LinksKept (s.setPort L p) := by
    refine (setPort_changesLink L p s).kept h (linkSound_iff.2 ?_)
    rw [State.setPort_port_self]
    have handed : (s.port L).handedOver = none := (h.port L).handedOver (by rw [off]; exact nofun)
    refine ⟨?_, (h.links L).line, nofun⟩
    exact
      { receiver := iff_of_false nofun (not_not.2 rfl)
        handedOver := fun _ => handed
        handedFor := fun k => absurd handed k
        buffer := fun _ => rfl
        bufferSize := Nat.zero_le _
        control := nofun
        offLine := nofun
        stopping := nofun
        address := fun _ => address }
  exact (keepsLinks_of_same rfl rfl rfl : KeepsLinks (s.setPort L p) (rearmDeadlines L (s.setPort L p))).kept started

theorem linkStartBody_linksKept {s : State} (h : LinksKept s) : LinksKept (linkStartBody s).1 := by
  unfold linkStartBody
  split
  · exact h
  · split
    · next off =>
      split
      · exact h
      · next address => exact startLink_linksKept h off address
    all_goals exact h

/-- The port of a link that LINK STOP has put in STOPPING. -/
def stoppingPort (p : LinkPort) : LinkPort :=
  { p with state := .stopping, receiver := .disabled, rxBuffer := [], handedOver := none }

theorem stopLink_eq (L : Link) (s : State) :
    stopLink L s = if (s.port L).transmitter = .active then s.setPort L (stoppingPort (s.port L))
      else enterOff L (s.setPort L (stoppingPort (s.port L))) := by
  simp [stopLink, disableReceiver, stoppingPort]

theorem stopLink_linksKept {s : State} (h : LinksKept s) {L : Link} (run : (s.port L).state = .run) :
    LinksKept (stopLink L s) := by
  have changed := setPort_changesLink L (stoppingPort (s.port L)) s
  rw [stopLink_eq]
  split
  · next active =>
    refine changed.kept h (linkSound_iff.2 ?_)
    rw [State.setPort_port_self]
    refine ⟨?_, fun _ => active, nofun⟩
    exact
      { receiver := iff_of_true rfl nofun
        handedOver := fun _ => rfl
        handedFor := fun k => absurd rfl k
        buffer := fun _ => rfl
        bufferSize := Nat.zero_le _
        control := nofun
        offLine := nofun
        stopping := fun _ => active
        address := fun _ => (h.port L).address (by rw [run]; exact nofun) }
  · next idle =>
    refine (changed.trans (enterOff_changesLink L _)).kept h (enterOff_linkSound ?_ ?_ ?_ ?_ ?_)
    · rw [State.setPort_port_self]; rfl
    · rw [State.setPort_port_self]; rfl
    · rw [State.setPort_port_self]; rfl
    · rw [State.setPort_port_self]; exact idle
    · exact fun recorded => idle ((h.links L).line recorded)

theorem linkStopBody_linksKept {s : State} (h : LinksKept s) : LinksKept (linkStopBody s).1 := by
  unfold linkStopBody
  split
  · exact h
  · split
    · next run => exact stopLink_linksKept h run
    all_goals exact h

theorem freeMessages_ports (ds : List DescNo) (s : State) : (freeMessages ds s).ports = s.ports := by
  induction ds generalizing s with
  | nil => rfl
  | cons d ds ih => exact (ih _).trans rfl

/-- The messages of a link that LINK RESET frees, with the link's records of them (R44, R60, R166). -/
def freeLink (L : Link) (s : State) (t : State) : State :=
  freeMessages (s.outstandingAscending L) (freeMessages (s.sch L).outboundQueue
    ((freeMessages (s.ready L) (t.setHistory L [])).setReady L []))

theorem resetLink_eq (L : Link) (s : State) :
    resetLink L s = recordNotice ⟨L, s.now, .linkReset (contextsOf L s) (s.ready L).length
        ((s.sch L).outboundQueue.length + (s.sch L).outstanding.length)⟩
      (((freeLink L s (abandonLink L s)).setSch L (emptiedScheduler (s.sch L))).setPort L (resetPort (s.port L))) := by
  let u := freeLink L s (abandonLink L s)
  have sched : u.sched = s.sched := by
    simp only [u, freeLink, freeMessages_sched, State.setReady_sched, State.setHistory_sched, abandonLink_sched]
  have ports : u.ports = s.ports := by
    simp only [u, freeLink, freeMessages_ports, State.setReady_ports, State.setHistory_ports, abandonLink_ports]
  have now : u.now = s.now := by
    refine ((freeMessages_evolve _ _).now.trans ((freeMessages_evolve _ _).now.trans ?_))
    exact (freeMessages_evolve _ _).now.trans (abandonContexts_evolve _ s).now
  have sch : u.sch L = s.sch L := congrArg (Table.look · L) sched
  have port : u.port L = s.port L := congrArg (Table.look · L) ports
  show recordNotice ⟨L, u.now, .linkReset (s.contextCount L) (s.ready L).length
        ((s.sch L).outboundQueue.length + (s.sch L).outstanding.length)⟩
      ((u.setSch L (emptiedScheduler (u.sch L))).setPort L (resetPort (u.port L))) = _
  rw [sch, port, now, contextCount_eq_contextsOf]

theorem freeLink_ports (L : Link) (s t : State) : (freeLink L s t).ports = t.ports := by
  simp only [freeLink, freeMessages_ports, State.setReady_ports, State.setHistory_ports]

theorem freeLink_sched (L : Link) (s t : State) : (freeLink L s t).sched = t.sched := by
  simp only [freeLink, freeMessages_sched, State.setReady_sched, State.setHistory_sched]

theorem freeLink_reasm (L : Link) (s t : State) : (freeLink L s t).reasm = (t.setHistory L []).reasm := by
  simp only [freeLink, freeMessages_reasm, State.setReady_reasm]

theorem resetLink_port (L : Link) (s : State) : (resetLink L s).port L = resetPort (s.port L) := by
  rw [resetLink_eq, recordNotice_eq]
  exact State.setPort_port_self ..

theorem resetLink_linksKept {s : State} (h : LinksKept s) (L : Link) : LinksKept (resetLink L s) := by
  have freed : ChangesLink L (abandonLink L s) (freeLink L s (abandonLink L s)) :=
    { port := fun M _ => congrArg (Table.look · M) (freeLink_ports ..)
      line := fun M _ => by rw [Recorded, State.sch, freeLink_sched]; exact id
      fewer := fewerContexts_of_same (by rw [freeLink_reasm]; rfl)
      quota := by rw [freeLink_reasm]; rfl }
  have changed : ChangesLink L s (resetLink L s) := by
    rw [resetLink_eq]
    exact (abandonLink_changesLink L s).trans (freed.trans ((setSch_changesLink L _ _).trans
      ((setPort_changesLink L _ _).trans (recordNotice_changesLink L _ _))))
  refine changed.kept h (linkSound_iff.2 ?_)
  rw [resetLink_port]
  refine ⟨?_, fun recorded => absurd recorded ?_, fun _ e c hc => ?_⟩
  · exact
      { receiver := iff_of_true rfl nofun
        handedOver := fun _ => rfl
        handedFor := fun k => absurd rfl k
        buffer := fun _ => rfl
        bufferSize := Nat.zero_le _
        control := fun _ => rfl
        offLine := fun _ => by unfold resetPort; split <;> simp_all
        stopping := nofun
        address := fun k => absurd rfl k }
  · rw [resetLink_eq, recordNotice_eq]
    simp [Recorded, State.sch, State.setPort, State.setSch, emptiedScheduler]
  · have reasm : (resetLink L s).reasm.contexts = (abandonLink L s).reasm.contexts := by
      rw [resetLink_eq, recordNotice_reasm, State.setPort_reasm, State.setSch_reasm, freeLink_reasm]
      rfl
    rw [State.context, reasm] at hc
    exact abandonLink_contextless L s e c hc

theorem linkResetBody_linksKept {s : State} (h : LinksKept s) : LinksKept (linkResetBody s).1 := by
  unfold linkResetBody
  split
  · exact h
  · exact resetLink_linksKept h _

/-! ### Settings (R184) -/

/-- A link without contexts uses none of its quota. -/
theorem Contextless.count {L : Link} {s : State} (h : Contextless L s) : s.contextCount L = 0 := by
  rw [State.contextCount, List.length_eq_zero_iff, List.eq_nil_iff_forall_not_mem]
  intro e he
  obtain ⟨c, hc, hl⟩ := Option.map_eq_some_iff.1 (mem_entriesOfLink.1 he)
  exact h e c hc hl

/-- What a link's soundness rests on is written in OFF alone. -/
theorem assign_linksKept {s : State} (h : LinksKept s) {x : Setting} {v : Nat} (accepted : x.accepts v s = true) :
    LinksKept (x.assign v s) := by
  simp only [Setting.accepts, Bool.and_eq_true] at accepted
  obtain ⟨⟨-, locked⟩, -⟩ := accepted
  have off (only : x.offOnly = true) : (s.port s.selected).state = .off := by simpa [only] using locked
  cases x with
  | stationAddress =>
    have port : PortKept (s.port s.selected) { s.port s.selected with stationAddress := v } :=
      ⟨rfl, id, fun k => { k with address := fun running => absurd (off rfl) running }⟩
    exact h.after (setPort_keepsLinks port)
  | lineRate =>
    have port : PortKept (s.port s.selected) (setLineRate v (s.port s.selected)) :=
      ⟨rfl, id, fun k => { k with
        handedFor := fun handed => absurd (k.handedOver (by rw [off rfl]; exact nofun)) handed }⟩
    exact h.after (setPort_keepsLinks port)
  | acceptBroadcast =>
    have port : PortKept (s.port s.selected) { s.port s.selected with acceptBroadcast := v == 1 } :=
      ⟨rfl, id, fun k => { k with }⟩
    exact h.after (setPort_keepsLinks port)
  | contextQuota =>
    refine ⟨fun M => ?_, fun M => ?_⟩
    · obtain ⟨port, line, contexts⟩ := linkSound_iff.1 (h.links M)
      exact linkSound_iff.2 ⟨port, line, contexts⟩
    · show s.contextCount M ≤ (s.reasm.quota.put s.selected v).look M
      rw [Table.look_put]
      split
      · next hM =>
        rw [hM, Contextless.count ((h.links _).contexts (off rfl))]
        exact Nat.zero_le v
      · exact h.quota M
  | outstandingLimit | attemptLimit | ackWait | refuseBackoff | reportDone =>
    have scheduled {y : Scheduler} (line : y.lineRecord = (s.sch s.selected).lineRecord) :
        LinksKept (s.setSch s.selected y) := h.after (setSch_keepsLinks fun recorded => by rwa [line] at recorded)
    exact scheduled rfl
  | prescale | ageStep | composeReserve | noticeWeight | threshold | attentionEnable | linkWeight =>
    exact h.after (keepsLinks_of_same rfl rfl rfl)
  | reassemblyLifetime => exact h.after (keepsLinks_of_fewer rfl (fun _ => id) (fewerContexts_of_same rfl) rfl)

end Sys2Proof.Steps
end

section
/-! PROOFS. The commands of the host, the register window, the reference periods and every step keep the links sound
(R7, R13, R18, R63, R66, R97, R103). -/

namespace Sys2Proof.Steps

open Sys2Proof.Machine Sys2Proof.Safety Sys2Proof.Statement

/-! ### The compose unit and the service context -/

theorem outWithdrawBody_keepsLinks (s : State) : KeepsLinks s (outWithdrawBody s).1 := by
  unfold outWithdrawBody
  split
  · exact .refl s
  · split
    · exact .refl s
    · split
      · exact .refl s
      · exact endOutbound_keepsLinks ..

theorem composeOpenBody_keepsLinks (s : State) : KeepsLinks s (composeOpenBody s).1 := by
  unfold composeOpenBody
  split
  · exact .refl s
  · split
    · exact .refl s
    · split
      · exact .refl s
      · split
        · exact .refl s
        · next hd =>
          obtain ⟨-, rfl⟩ := claimDescriptor_eq_some.1 hd
          exact keepsLinks_of_same rfl rfl rfl

theorem composeSubmitBody_keepsLinks (s : State) : KeepsLinks s (composeSubmitBody s).1 := by
  unfold composeSubmitBody
  split
  · exact .refl s
  · next d _ =>
    let L := (s.desc d).link
    have queued : KeepsLinks s ((s.setDesc d
        { s.desc d with state := .queued, fragmentCount := some (fragmentCountOf (s.desc d).length) }).setSch L
        { s.sch L with outboundQueue := (s.sch L).outboundQueue ++ [d] }) :=
      setDesc_setSch_keepsLinks d _ id
    exact queued.trans (keepsLinks_of_same rfl rfl rfl)

theorem composeCancelBody_keepsLinks (s : State) : KeepsLinks s (composeCancelBody s).1 := by
  unfold composeCancelBody
  split
  · exact .refl s
  · exact keepsLinks_of_same rfl rfl rfl

theorem composeBlock_keepsLinks {d : DescNo} {s t : State} {b : BlockNo} (h : composeBlock d s = some (b, t)) :
    KeepsLinks s t := by
  unfold composeBlock at h
  split at h
  · obtain ⟨⟨b', u⟩, hu, hb⟩ := Option.map_eq_some_iff.1 h
    obtain ⟨rest, -, rfl⟩ := grantBlock_eq_some.1 hu
    cases hb
    exact keepsLinks_of_same rfl rfl rfl
  · obtain ⟨b', -, hb⟩ := Option.map_eq_some_iff.1 h
    cases hb
    exact .refl s

theorem writeComposePort_keepsLinks (v : Byte) (s : State) : KeepsLinks s (writeComposePort v s) := by
  unfold writeComposePort writeComposeByte
  split
  · exact .refl s
  · split
    · exact keepsLinks_of_same rfl rfl rfl
    · split
      · exact keepsLinks_of_same rfl rfl rfl
      · split
        · next hb => exact (composeBlock_keepsLinks hb).trans (keepsLinks_of_same rfl rfl rfl)
        · exact keepsLinks_of_same rfl rfl rfl

theorem takeItem_keepsLinks (w : Source × Nat) (s : State) : KeepsLinks s (takeItem w s) := by
  unfold takeItem
  split <;> split <;> exact keepsLinks_of_same rfl rfl rfl

theorem takeBody_keepsLinks (s : State) : KeepsLinks s (takeBody s).1 := by
  unfold takeBody
  split
  · exact .refl s
  · split
    · exact .refl s
    · split
      · exact takeItem_keepsLinks ..
      · exact .refl s

theorem takeAnyBody_keepsLinks (s : State) : KeepsLinks s (takeAnyBody s).1 := by
  unfold takeAnyBody
  split
  · exact .refl s
  · split
    · exact .refl s
    · exact takeItem_keepsLinks ..

theorem releaseBody_keepsLinks (s : State) : KeepsLinks s (releaseBody s).1 := by
  unfold releaseBody
  split <;> exact keepsLinks_of_same rfl rfl rfl

theorem requeueBody_keepsLinks (s : State) : KeepsLinks s (requeueBody s).1 := by
  unfold requeueBody
  split
  · exact .refl s
  · exact keepsLinks_of_same rfl rfl rfl
  · split <;> exact keepsLinks_of_same rfl rfl rfl

theorem countersClearBody_keepsLinks (s : State) : KeepsLinks s (countersClearBody s).1 := by
  unfold countersClearBody
  split
  · exact .refl s
  · exact setPort_keepsLinks ⟨rfl, id, fun h => { h with }⟩

/-! ### Reads and writes of the window -/

theorem deviceReset_linksKept (low : Bool) (s : State) : LinksKept (deviceReset low s) :=
  ⟨deviceReset_linkSound low s, deviceReset_quotaKept low s⟩

theorem hostWrite_linksKept {effect : State → State} {s : State} (h : LinksKept s) (k : LinksKept (effect s)) :
    LinksKept (hostWrite effect s) := by
  unfold hostWrite
  split
  · exact h
  · exact k

theorem issueCommand_linksKept {code : Byte} {body : State → State × CommandOutcome} {s : State} (h : LinksKept s)
    (k : LinksKept (body s).1) : LinksKept (issueCommand code body s) := by
  refine hostWrite_linksKept h ?_
  split
  · exact h.after (keepsLinks_of_same rfl rfl rfl)
  · exact k.after (keepsLinks_of_same rfl rfl rfl)

theorem commandDeviceReset_linksKept {s : State} (h : LinksKept s) : LinksKept (commandDeviceReset s) := by
  refine hostWrite_linksKept h ?_
  split
  · exact h.after (keepsLinks_of_same rfl rfl rfl)
  · exact deviceReset_linksKept false s

theorem writeCommandRegister_linksKept {s : State} (h : LinksKept s) (code : Byte) :
    LinksKept (writeCommandRegister code s) := by
  have kept {body : State → State × CommandOutcome} (k : KeepsLinks s (body s).1) :
      LinksKept (issueCommand code body s) := issueCommand_linksKept h (k.kept h)
  unfold writeCommandRegister
  split
  · exact issueCommand_linksKept h (linkStartBody_linksKept h)
  · exact issueCommand_linksKept h (linkStopBody_linksKept h)
  · exact issueCommand_linksKept h (linkResetBody_linksKept h)
  · exact kept (takeBody_keepsLinks s)
  · exact kept (takeAnyBody_keepsLinks s)
  · exact kept (releaseBody_keepsLinks s)
  · exact kept (requeueBody_keepsLinks s)
  · exact kept (composeOpenBody_keepsLinks s)
  · exact kept (composeSubmitBody_keepsLinks s)
  · exact kept (composeCancelBody_keepsLinks s)
  · exact kept (outWithdrawBody_keepsLinks s)
  · exact kept (keepsLinks_of_same rfl rfl rfl)
  · exact kept (countersClearBody_keepsLinks s)
  · exact kept (keepsLinks_of_same rfl rfl rfl)
  · exact commandDeviceReset_linksKept h
  · exact kept (.refl s)

theorem windowWrite_linksKept {s : State} (h : LinksKept s) (a : BitVec 7) (v : Byte) :
    LinksKept (windowWrite a v s) := by
  have host {t : State} (ports : t.ports = s.ports) (sched : t.sched = s.sched) (reasm : t.reasm = s.reasm) :
      LinksKept t :=
    h.after (keepsLinks_of_same ports sched reasm)
  unfold windowWrite
  split
  · exact writeCommandRegister_linksKept h v
  · unfold writeLinkSelect; split <;> exact host rfl rfl rfl
  · exact host rfl rfl rfl
  · exact host rfl rfl rfl
  · exact host rfl rfl rfl
  · exact host rfl rfl rfl
  · unfold writeCursorHigh
    split
    · exact h
    · split <;> exact host rfl rfl rfl
  · exact (writeComposePort_keepsLinks v s).kept h
  · exact host rfl rfl rfl
  · unfold writeCeilingHigh writeCeiling; split <;> exact host rfl rfl rfl
  · split
    · unfold writeSetting
      split
      · next accepted => exact assign_linksKept h accepted
      · exact host rfl rfl rfl
    · exact h

theorem takeWrite_linksKept {s : State} (h : LinksKept s) (a : BitVec 7) (v : Byte) : LinksKept (takeWrite a v s) :=
  hostWrite_linksKept h (windowWrite_linksKept h a v)

theorem readEffect_keepsLinks (a : BitVec 7) (s : State) : KeepsLinks s (readEffect a s) := by
  have port : KeepsLinks s (readDataPort s) := by
    unfold readDataPort
    split
    · exact .refl s
    · split <;> exact keepsLinks_of_same rfl rfl rfl
  generalize he : readEffect a = effect
  unfold readEffect at he
  split at he <;> subst he
  · exact port
  all_goals exact keepsLinks_of_same rfl rfl rfl

theorem takeRead_keepsLinks (a : BitVec 7) (s : State) : KeepsLinks s (takeRead a s) := by
  unfold takeRead hostRead
  split
  · exact keepsLinks_of_same rfl rfl rfl
  · exact (readEffect_keepsLinks a s).trans (keepsLinks_of_same rfl rfl rfl)

/-! ### A reference period, a command and a step -/

theorem busPeriod_linksKept {s : State} (h : LinksKept s) : LinksKept (busPeriod s) := by
  have written : LinksKept (if writeEnds s.inputs s.inputs.next then
      takeWrite s.inputs.next.address s.inputs.next.data s else s) := by
    split
    · exact takeWrite_linksKept h _ _
    · exact h
  have driven (t : State) : KeepsLinks t (driveData s.inputs s.inputs.next t) := by
    unfold driveData
    split
    · exact takeRead_keepsLinks _ t
    · split
      · exact .refl t
      · exact keepsLinks_of_same rfl rfl rfl
  exact (written.after (driven _)).after (keepsLinks_of_same rfl rfl rfl)

theorem takeTick_keepsLinks (s : State) : KeepsLinks s (takeTick s) := by
  have expired : KeepsLinks s (takeExpiries s) :=
    takeExpiries_induction (P := KeepsLinks s) (.refl s) (fun e _ h => h.trans (lifetimeExpiry_keepsLinks e _))
      (fun d _ h => h.trans (ackWaitExpiry_keepsLinks d _)) fun d _ h => h.trans (backoffExpiry_keepsLinks d _)
  unfold takeTick
  split
  · exact .refl s
  · exact expired.trans (time_keepsLinks _ _)

theorem countPeriod_keepsLinks (s : State) : KeepsLinks s (countPeriod s) := by
  unfold countPeriod
  split
  · exact time_keepsLinks _ s
  · exact takeTick_keepsLinks s

theorem agePulsePeriod_keepsLinks (s : State) : KeepsLinks s (agePulsePeriod s) := by
  unfold agePulsePeriod
  split <;> exact keepsLinks_of_same rfl rfl rfl

theorem placeBlock_keepsLinks (s : State) : KeepsLinks s (placeBlock s) := by
  unfold placeBlock
  split
  · split <;> exact keepsLinks_of_same rfl rfl rfl
  · exact .refl s

theorem linkPeriod_linksKept {s : State} (h : LinksKept s) (L : Link) : LinksKept (linkPeriod L s) :=
  ((handOffPeriod_keepsLinks L _).trans (receiverPeriod_keepsLinks L _)).kept (transmitterPeriod_linksKept h L)

theorem linkPeriods_linksKept {s : State} (h : LinksKept s) : LinksKept (linkPeriods s) :=
  linkPeriod_linksKept (linkPeriod_linksKept (linkPeriod_linksKept (linkPeriod_linksKept h 0) 1) 2) 3

theorem clockPeriod_linksKept {s : State} (h : LinksKept s) : LinksKept (clockPeriod s) := by
  have bus := busPeriod_linksKept h
  simp only [clockPeriod]
  split
  · exact bus
  · exact linkPeriods_linksKept ((((countPeriod_keepsLinks _).trans (agePulsePeriod_keepsLinks _)).trans
      (placeBlock_keepsLinks _)).kept bus)

/-- Every command keeps the links sound. -/
theorem exec_linksKept {s : State} (h : LinksKept s) (c : Instr) : ∃ t, exec c s = .next t ∧ LinksKept t :=
  have command {c : Instr} (code : Byte) (hc : commandCode c = some code) : ∃ t, exec c s = .next t ∧ LinksKept t :=
    ⟨_, exec_of_commandCode hc s, writeCommandRegister_linksKept h code⟩
  have voided (t : State) : KeepsLinks t (voidAccess t) := keepsLinks_of_same rfl rfl rfl
  match c with
  | .resetLineLow => ⟨_, rfl, (voided _).kept (deviceReset_linksKept true s)⟩
  | .resetLineHigh => ⟨_, rfl, h.after (keepsLinks_of_same rfl rfl rfl)⟩
  | .freeListRebuilt => ⟨_, rfl, by
      split
      · exact h.after (keepsLinks_of_same rfl rfl rfl)
      · exact h⟩
  | .tick => ⟨_, rfl, (takeTick_keepsLinks s).kept h⟩
  | .agePulse => ⟨_, rfl, (agePulsePeriod_keepsLinks s).kept h⟩
  | .contextLifetimeExpiry e => ⟨_, rfl, (lifetimeExpiry_keepsLinks e s).kept h⟩
  | .acknowledgementWaitExpiry d => ⟨_, rfl, (ackWaitExpiry_keepsLinks d s).kept h⟩
  | .refuseBackoffExpiry d => ⟨_, rfl, (backoffExpiry_keepsLinks d s).kept h⟩
  | .settlingGapEnd L => ⟨_, rfl, (endSettling_keepsLinks L s).kept h⟩
  | .rxFrameComplete L => ⟨_, rfl, (finishFrame_keepsLinks L s).kept h⟩
  | .truncation L => ⟨_, rfl, (truncateFrame_keepsLinks L s).kept h⟩
  | .characterError L => ⟨_, rfl, (receiveError_keepsLinks L s).kept h⟩
  | .oversizedPayloadLength L => ⟨_, rfl, (discardOversized_keepsLinks L s).kept h⟩
  | .fragment L => ⟨_, rfl, (takeHandedFragment_keepsLinks L s).kept h⟩
  | .ackReceived L => ⟨_, rfl, (takeHandedAck_keepsLinks L s).kept h⟩
  | .refuseReceived L => ⟨_, rfl, (takeHandedRefuse_keepsLinks L s).kept h⟩
  | .frameStart L => ⟨_, rfl, (takeFrameStart_keepsLinks L s).kept h⟩
  | .frameEnd L => ⟨_, rfl, by
      split
      · next sending => exact endFrame_linksKept h sending
      · exact h⟩
  | .txGapEnd L => ⟨_, rfl, gapEnded_linksKept h L⟩
  | .linkStart | .linkStop | .linkReset | .take | .takeAny | .release | .requeue | .composeOpen | .composeSubmit
  | .composeCancel | .outWithdraw | .noticeClearOverflow | .countersClear | .clearFlags | .deviceReset
  | .unknownCommand _ => command _ rfl
  | .readDataPortRead => ⟨_, rfl, (takeRead_keepsLinks 0x24 s).kept h⟩
  | .readCursorLowRead => ⟨_, rfl, (takeRead_keepsLinks 0x25 s).kept h⟩
  | .writeCountLowRead => ⟨_, rfl, (takeRead_keepsLinks 0x28 s).kept h⟩
  | .tickCounterLowRead => ⟨_, rfl, (takeRead_keepsLinks 0x2A s).kept h⟩
  | .freeCountLowRead => ⟨_, rfl, (takeRead_keepsLinks 0x2E s).kept h⟩
  | .inboundHoldLowRead => ⟨_, rfl, (takeRead_keepsLinks 0x49 s).kept h⟩
  | .linkSelectWrite v => ⟨_, rfl, takeWrite_linksKept h 0x04 v⟩
  | .readCursorLowWrite v => ⟨_, rfl, takeWrite_linksKept h 0x25 v⟩
  | .readCursorHighWrite v => ⟨_, rfl, takeWrite_linksKept h 0x26 v⟩
  | .composeDataPortWrite v => ⟨_, rfl, takeWrite_linksKept h 0x27 v⟩
  | .ceilingLowWrite v => ⟨_, rfl, takeWrite_linksKept h 0x47 v⟩
  | .ceilingHighWrite v => ⟨_, rfl, takeWrite_linksKept h 0x48 v⟩
  | .configurationWrite a v => ⟨_, rfl, takeWrite_linksKept h a v⟩
  | .characterReceived L b => ⟨_, rfl, (receiveCharacter_keepsLinks L b s).kept h⟩

/-- Settles O54: an operation either keeps every link's state and line, or changes one link alone and leaves that one
sound. -/
theorem everyStepKeepsTheLinksSound : Obligations.EveryStepKeepsTheLinksSound := by
  intro s t links quota h
  have sound : LinksKept s := ⟨links, quota⟩
  suffices kept : LinksKept t from ⟨kept.links, kept.quota⟩
  unfold step at h
  split at h
  · cases h; exact clockPeriod_linksKept sound
  · next c rest _ =>
    have fetched : LinksKept { s with pending := rest } := sound.after (keepsLinks_of_same rfl rfl rfl)
    obtain ⟨u, hu, k⟩ := exec_linksKept fetched c
    obtain rfl : u = t := by rw [hu] at h; exact Host.Outcome.next.inj h
    exact k

end Sys2Proof.Steps
end

section
/-! PROOFS. The frames that a frame start puts on the line: the control request and the fragment of the scheduler's
offer (R4 to R6, R14, R15, R147 to R149). -/

namespace Sys2Proof.Steps

open Sys2Proof.Machine Sys2Proof.Safety Sys2Proof.Statement

/-! ### The bytes of a frame (R4, R6) -/

theorem check_eq_checkOf (bytes : List Byte) : check bytes = checkOf bytes := (checkOf_eq_bits bytes).symm

theorem frame_bytes_eq_framed (f : Frame) : f.bytes = framed f.body := by
  rw [Frame.bytes, framed, check_eq_checkOf, checkBytes_eq]

theorem isFinal_iff {x : Descriptor} {n : Nat} : isFinal x n = true ↔ n + 1 = x.fragmentCount.getD 1 := beq_iff_eq

theorem fragmentPayload_eq (s : State) (x : Descriptor) (n : Nat) :
    fragmentPayload s x n = fragmentBytes s.pool.blocks x n := by
  unfold fragmentPayload fragmentBytes
  split
  · next b hb =>
    rw [hb]
    simp only [if_congr isFinal_iff rfl rfl]
    rfl
  · next hb => rw [hb]; rfl

theorem offeredFrame_bytes (L : Link) (d : DescNo) (s : State) :
    (offeredFrame L d s).bytes = dataBytes (s.port L).stationAddress s.pool.blocks (s.desc d) := by
  have tag : tagByte (tagOf (s.desc d)) = BitVec.ofNat 8 (((s.desc d).tag.map Fin.val).getD 0) := by
    cases h : (s.desc d).tag <;> simp [tagByte, tagOf, h]
  rw [frame_bytes_eq_framed, dataBytes, ← fragmentPayload_eq, ← tag]
  simp only [offeredFrame, dataFrame, Frame.body, fragmentByteOf, if_congr isFinal_iff rfl rfl]
  rfl

/-! ### Frame start (R14) -/

theorem takeFrameStart_control {s : State} {L : Link} {r : Request} {rest : List Request}
    (run : (s.port L).state = .run) (idle : (s.port L).transmitter = .idle)
    (queue : (s.port L).controlQueue = r :: rest) : takeFrameStart L s = startControl L r rest s := by
  simp [takeFrameStart, startFrame, run, idle, queue]

theorem takeFrameStart_data {s : State} {L : Link} {o : Offer} (run : (s.port L).state = .run)
    (idle : (s.port L).transmitter = .idle) (queue : (s.port L).controlQueue = []) (offer : s.offer L = some o) :
    takeFrameStart L s = startData L o s := by
  simp [takeFrameStart, startFrame, run, idle, queue, offer]

theorem takeFrameStart_of_none {s : State} {L : Link} (queue : (s.port L).controlQueue = [])
    (offer : s.offer L = none) : takeFrameStart L s = s := by
  simp [takeFrameStart, startFrame, queue, offer]

/-- Settles O26: the head of the control queue leaves it, and its kind says its bytes. -/
theorem frameStartTakesControlRequestsFirst : Obligations.FrameStartTakesControlRequestsFirst := by
  intro s L
  refine ⟨fun r rest run idle queue => ?_, fun blocked => congrArg Host.Outcome.next ?_⟩
  · refine congrArg Host.Outcome.next ((takeFrameStart_control run idle queue).trans ?_)
    simp only [startControl, beginFrame, frame_bytes_eq_framed, State.setPort_setPort, State.setPort_port_self]
    obtain ⟨kind, destination, tag⟩ := r
    match kind with
    | .ack => rfl
    | .refuse .noContext => rfl
    | .refuse .noBlock => rfl
  · obtain stopped | busy | ⟨queue, none, resend, outbound⟩ := blocked
    · exact if_neg fun ready => stopped ready.1
    · exact if_neg fun ready => busy ready.2
    · exact takeFrameStart_of_none queue (offer_eq_none.2 ⟨sendingOf_eq_none.2 none, resend, outbound⟩)

/-! ### The scheduler's offer (R147 to R149) -/

theorem offer_sending {s : State} {L : Link} {d : DescNo} (h : Sending L d s) : s.offer L = some (.sending d) := by
  simp [State.offer, sendingOf_eq_some_iff.2 h]

theorem offer_resend {s : State} {L : Link} {d : DescNo} {rest : List DescNo} (none : SendsNone L s)
    (order : (s.sch L).resendOrder = d :: rest) : s.offer L = some (.resend d) := by
  simp [State.offer, sendingOf_eq_none.2 none, order]

theorem offer_queued {s : State} {L : Link} {d : DescNo} {rest : List DescNo} (none : SendsNone L s)
    (order : (s.sch L).resendOrder = []) (queue : (s.sch L).outboundQueue = d :: rest)
    (room : (s.sch L).outstanding.length < (s.sch L).outstandingLimit) : s.offer L = some (.queued d) := by
  simp [State.offer, sendingOf_eq_none.2 none, order, queue, room]

/-- The state with a message's descriptor and its link's scheduler replaced and the message's fragment on the line. -/
def withFragment (L : Link) (d : DescNo) (x : Descriptor) (y : Scheduler) (s : State) : State :=
  { s with
    table := { s.table with descriptors := s.table.descriptors.put d x }
    sched := s.sched.put L { y with lineRecord := some ⟨x.position, some d⟩ }
    ports := s.ports.put L { s.port L with
      transmitter := .active, txPeriods := 0
      txBuffer := dataBytes (s.port L).stationAddress s.pool.blocks x } }

/-- The frame of a message that stands with its new descriptor and scheduler. -/
theorem beginFrame_setLine (L : Link) (d : DescNo) (x : Descriptor) (y : Scheduler) (s : State) :
    beginFrame L (offeredFrame L d (setLine L d x.position ((s.setDesc d x).setSch L y)))
        (setLine L d x.position ((s.setDesc d x).setSch L y)) = withFragment L d x y s := by
  rw [beginFrame, offeredFrame_bytes]
  simp only [setLine, State.setSch_setSch, State.setSch_sch_self, State.setSch_desc, State.setDesc_desc_self]
  rfl

theorem startData_sending (L : Link) (d : DescNo) (s : State) :
    startData L (.sending d) s = withFragment L d (s.desc d) (s.sch L) s := by
  rw [← beginFrame_setLine, State.setDesc_desc_eq, State.setSch_sch_eq]
  rfl

theorem startData_resend {L : Link} {d : DescNo} {rest : List DescNo} {s : State}
    (order : (s.sch L).resendOrder = d :: rest) : startData L (.resend d) s = withFragment L d
      { s.desc d with state := .sending, position := 0, attempts := (s.desc d).attempts + 1 }
      { s.sch L with resendOrder := rest } s := by
  rw [← beginFrame_setLine, startData, takeOffer]
  simp only [beginResend, Offer.descriptor, order, List.tail_cons, State.setSch_desc, State.setDesc_desc_self]

theorem startData_queued {L : Link} {d : DescNo} {rest : List DescNo} {s : State}
    (queue : (s.sch L).outboundQueue = d :: rest) : startData L (.queued d) s = withFragment L d
      { s.desc d with state := .sending, position := 0, tag := some (s.tagGiven L), attempts := 1 }
      { s.sch L with
        outboundQueue := rest, outstanding := (s.sch L).outstanding ++ [d], nextTag := s.tagGiven L + 1 } s := by
  rw [← beginFrame_setLine, startData, takeOffer]
  simp only [beginQueued, Offer.descriptor, queue, List.tail_cons, State.setSch_desc, State.setDesc_desc_self]

/-- Settles O27: the three cases of the offer, each with the descriptor and the scheduler that it leaves. -/
theorem frameStartTakesTheOffer : Obligations.FrameStartTakesTheOffer := by
  intro s L d run idle queue
  have starts {o : Offer} (offer : s.offer L = some o) : exec (.frameStart L) s = .next (startData L o s) :=
    congrArg Host.Outcome.next (takeFrameStart_data run idle queue offer)
  refine ⟨fun sending => ?_, fun rest none order => ?_, fun rest none order waiting room => ?_⟩
  · rw [starts (offer_sending sending), startData_sending]
    rfl
  · rw [starts (offer_resend none order), startData_resend order]
    rfl
  · rw [starts (offer_queued none order waiting room), startData_queued waiting]
    rfl

end Sys2Proof.Steps
end

section
/-! PROOFS. Frame end outside STOPPING, the gap, and the reference periods of a transmitter (R2, R3, R14, R16, R151). -/

namespace Sys2Proof.Steps

open Sys2Proof.Machine Sys2Proof.Safety Sys2Proof.Statement

/-! ### The report of a frame end (R16, R151) -/

theorem exec_frameEnd {L : Link} {s : State} (active : (s.port L).transmitter = .active) :
    exec (.frameEnd L) s = .next (endFrame L s) := congrArg Host.Outcome.next (if_pos active)

theorem endFrame_eq_report {L : Link} {s : State} (running : (s.port L).state ≠ .stopping) :
    endFrame L s = reportFrameEnd L (enterGap L s) := by
  have port : (reportFrameEnd L (enterGap L s)).port L = (enterGap L s).port L :=
    congrArg (Table.look · L) (reportFrameEnd_ports L _)
  refine if_neg ?_
  rw [port, enterGap, State.setPort_port_self]
  exact running

theorem reportFrameEnd_of_sending {L : Link} {s : State} {n : Nat} {d : DescNo}
    (line : (s.sch L).lineRecord = some ⟨n, some d⟩) (sending : (s.desc d).state = .sending) :
    reportFrameEnd L s = clearLine L (fragmentSent L d n s) := by
  simp [reportFrameEnd, line, sending]

theorem reportFrameEnd_of_no_descriptor {L : Link} {s : State}
    (line : (s.sch L).lineRecord = none ∨ ∃ n, (s.sch L).lineRecord = some ⟨n, none⟩) :
    reportFrameEnd L s = clearLine L s := by
  obtain line | ⟨n, line⟩ := line <;> simp [reportFrameEnd, line]

section
variable {L : Link} {s : State} {d : DescNo} {n : Nat}

theorem fragmentSent_of_more (more : n + 1 < (s.desc d).fragmentCount.getD 1) :
    fragmentSent L d n s = s.setDesc d { s.desc d with position := n + 1 } := if_pos more

theorem fragmentSent_of_unicast (last : (s.desc d).fragmentCount.getD 1 ≤ n + 1)
    (unicast : (s.desc d).broadcast = false) : fragmentSent L d n s = enterAwaitAck L d s := by
  rw [fragmentSent, if_neg (Nat.not_lt.2 last), unicast]
  rfl

theorem fragmentSent_of_broadcast (last : (s.desc d).fragmentCount.getD 1 ≤ n + 1)
    (broadcast : (s.desc d).broadcast = true) : fragmentSent L d n s = finishDone L d s := by
  rw [fragmentSent, if_neg (Nat.not_lt.2 last), broadcast]
  rfl

end

/-! ### The periods of a transmitter (R2, R3) -/

theorem framePeriods_eq (rate : Nat) (bytes : List Byte) :
    framePeriods rate bytes = 10 * bytes.length * (16 * 2 ^ (7 - rate)) :=
  congrArg (· * (16 * 2 ^ (7 - rate))) (Nat.mul_comm ..)

section
variable {L : Link} {s : State}

theorem transmitterPeriod_active (active : (s.port L).transmitter = .active) :
    transmitterPeriod L s = sendPeriod L s := by simp [transmitterPeriod, active]

theorem transmitterPeriod_gap (gap : (s.port L).transmitter = .gap) :
    transmitterPeriod L s = s.setPort L (measureGap (s.port L)) := by simp [transmitterPeriod, gap]

theorem transmitterPeriod_idle (idle : (s.port L).transmitter = .idle) :
    transmitterPeriod L s = takeFrameStart L s := by simp [transmitterPeriod, idle]

end

/-- Settles O29: outside STOPPING a frame end is the report of its fragment, and a transmitter's period counts up to the
frame's length or the gap's. -/
theorem frameEndMovesTheMessageOn : Obligations.FrameEndMovesTheMessageOn := by
  intro s L
  refine ⟨fun active running => ?_, fun gap high => congrArg Host.Outcome.next (if_pos ⟨gap, high⟩),
    fun active sends => ?_, fun t active ends stepped => ?_, fun gap measures => ?_, fun gap ends => ?_,
    fun t idle stepped => ?_⟩
  · have report : exec (.frameEnd L) s = .next (reportFrameEnd L (enterGap L s)) := by
      rw [exec_frameEnd active, endFrame_eq_report running]
    have sent {n : Nat} {d : DescNo} (line : (s.sch L).lineRecord = some ⟨n, some d⟩)
        (sending : (s.desc d).state = .sending) :
        exec (.frameEnd L) s = .next (clearLine L (fragmentSent L d n (enterGap L s))) :=
      report.trans (congrArg _ (reportFrameEnd_of_sending (by exact line) sending))
    refine ⟨fun n d line sending more => ?_, fun n d line sending last unicast => ?_,
      fun n d line sending last broadcast => ?_, fun line => ?_⟩
    · rw [sent line sending, fragmentSent_of_more (by exact more)]
      rfl
    · rw [sent line sending, fragmentSent_of_unicast (by exact last) (by exact unicast)]
      rfl
    · rw [sent line sending, fragmentSent_of_broadcast (by exact last) (by exact broadcast)]
      exact ⟨_, _, rfl, rfl, endOutbound_ended _ _ (finishDone_eq L d _)⟩
    · rw [report, reportFrameEnd_of_no_descriptor (by exact line)]
      rfl
  · rw [transmitterPeriod_active active]
    exact if_pos ((framePeriods_eq ..).symm ▸ sends)
  · rw [transmitterPeriod_active active, sendPeriod, if_neg (Nat.not_lt.2 ((framePeriods_eq ..).symm ▸ ends))]
    exact Host.Outcome.next.inj ((exec_frameEnd active).symm.trans stepped)
  · rw [transmitterPeriod_gap gap]
    exact congrArg (s.setPort L) (if_pos measures)
  · rw [transmitterPeriod_gap gap]
    exact congrArg (s.setPort L) (if_neg (Nat.not_lt.2 ends))
  · rw [transmitterPeriod_idle idle]
    exact Host.Outcome.next.inj stepped

end Sys2Proof.Steps
end

section
/-! PROOFS. LINK_START and LINK_STOP (R18 to R20, R165). -/

namespace Sys2Proof.Steps

open Sys2Proof.Machine Sys2Proof.Safety Sys2Proof.Statement

theorem exec_linkStart {s : State} (operational : s.operational) :
    exec .linkStart s = .next (recordOutcome 0x01 (linkStartBody s).2 (linkStartBody s).1) :=
  congrArg Host.Outcome.next (issueCommand_operational operational)

theorem exec_linkStop {s : State} (operational : s.operational) :
    exec .linkStop s = .next (recordOutcome 0x02 (linkStopBody s).2 (linkStopBody s).1) :=
  congrArg Host.Outcome.next (issueCommand_operational operational)

theorem linkStartBody_of_none {s : State} (large : 4 ≤ s.host.p0.toNat) : linkStartBody s = (s, .badParam) := by
  rw [linkStartBody, linkParameter_eq_none.2 large]

theorem linkStopBody_of_none {s : State} (large : 4 ≤ s.host.p0.toNat) : linkStopBody s = (s, .badParam) := by
  rw [linkStopBody, linkParameter_eq_none.2 large]

section
variable {s : State} {L : Link} (named : s.host.p0.toNat = L.val)
include named

theorem linkStartBody_of_off (off : (s.port L).state = .off) : linkStartBody s =
    if (s.port L).stationAddress = 0 then (s, .badParam) else (startLink L s, .ok) := by
  simp [linkStartBody, linkParameter_eq_some.2 named, off]

theorem linkStartBody_of_not_off (on : (s.port L).state ≠ .off) : linkStartBody s = (s, .state) := by
  rw [linkStartBody, linkParameter_eq_some.2 named]
  cases h : (s.port L).state with
  | off => exact absurd h on
  | run | stopping => simp only [h]

theorem linkStopBody_of_run (run : (s.port L).state = .run) : linkStopBody s = (stopLink L s, .ok) := by
  simp [linkStopBody, linkParameter_eq_some.2 named, run]

theorem linkStopBody_of_not_run (stopped : (s.port L).state ≠ .run) : linkStopBody s = (s, .state) := by
  rw [linkStopBody, linkParameter_eq_some.2 named]
  cases h : (s.port L).state with
  | run => exact absurd h stopped
  | off | stopping => simp only [h]

end

/-- Settles O30: the parameter, the link state and the station address decide, in this order. -/
theorem linkStartEntersRunAndLinkStopStopping : Obligations.LinkStartEntersRunAndLinkStopStopping := by
  intro s operational
  refine ⟨fun large => ?_, fun L named => ⟨fun off unassigned => ?_, fun on => ?_, fun off assigned => ?_⟩,
    fun large => ?_, fun L named => ⟨fun stopped => ?_, fun run active => ?_⟩⟩
  · rw [exec_linkStart operational, linkStartBody_of_none large]
    rfl
  · rw [exec_linkStart operational, linkStartBody_of_off named off, if_pos unassigned]
    rfl
  · rw [exec_linkStart operational, linkStartBody_of_not_off named on]
    rfl
  · rw [exec_linkStart operational, linkStartBody_of_off named off, if_neg assigned]
    exact ⟨_, rfl, fun d => Table.look_mapAll .., rfl⟩
  · rw [exec_linkStop operational, linkStopBody_of_none large]
    rfl
  · rw [exec_linkStop operational, linkStopBody_of_not_run named stopped]
    rfl
  · rw [exec_linkStop operational, linkStopBody_of_run named run, stopLink_eq, if_pos active]
    rfl

end Sys2Proof.Steps
end

section
/-! PROOFS. The entry of a stopping link to OFF (R16, R20, R86, R163, R164). -/

namespace Sys2Proof.Steps

open Sys2Proof.Machine Sys2Proof.Safety Sys2Proof.Statement

/-! ### The message that is stopped (R163) -/

theorem finishFailed_eq (L : Link) (d : DescNo) (r : FailReason) (s : State) :
    finishFailed L d r s = endOutbound L d { s with notices := offered (failedNotice L d r s) s.notices } :=
  congrArg (endOutbound L d) (recordNotice_eq_offered _ s)

/-- What the descriptor of a message stopped while SENDING holds. -/
def stoppedDescriptor (L : Link) (s : State) (d : DescNo) : Descriptor :=
  if (s.desc d).attempts < (s.sch L).attemptLimit then
    { s.desc d with state := .resend, position := 0, deadline := none } else .cleared

section
variable {L : Link} {s : State} {d : DescNo} (sending : s.sendingOf L = some d)
include sending

theorem stopSending_of_below (below : (s.desc d).attempts < (s.sch L).attemptLimit) :
    stopSending L s = enterResend L d s := by simp [stopSending, sending, below]

theorem stopSending_of_limit (limit : (s.sch L).attemptLimit ≤ (s.desc d).attempts) :
    stopSending L s = finishFailed L d .stoppedAtLimit s := by simp [stopSending, sending, Nat.not_lt.2 limit]

end

theorem stopSending_of_none {L : Link} {s : State} (none : s.sendingOf L = none) : stopSending L s = s := by
  simp [stopSending, none]

theorem stopSending_desc (L : Link) (s : State) (i : DescNo) :
    (stopSending L s).desc i = if s.sendingOf L = some i then stoppedDescriptor L s i else s.desc i := by
  cases sending : s.sendingOf L with
  | none => rw [stopSending_of_none sending]; rfl
  | some d =>
    have put (x : Descriptor) : (s.setDesc d x).desc i = if some d = some i then x else s.desc i := by
      rw [State.setDesc_desc]
      simp only [Option.some.injEq, eq_comm]
    by_cases below : (s.desc d).attempts < (s.sch L).attemptLimit
    · rw [stopSending_of_below sending below]
      refine (put _).trans (if_ctx_congr Iff.rfl (fun same => ?_) fun _ => rfl)
      obtain rfl := Option.some.inj same
      exact (if_pos below).symm
    · rw [stopSending_of_limit sending (Nat.not_lt.1 below), finishFailed_eq]
      refine (put _).trans (if_ctx_congr Iff.rfl (fun same => ?_) fun _ => rfl)
      obtain rfl := Option.some.inj same
      exact (if_neg below).symm

/-- A stopped message changes descriptors, blocks, notices and schedulers alone. -/
theorem stopSending_shape (L : Link) (s : State) : stopSending L s = { s with
    pool := (stopSending L s).pool, notices := (stopSending L s).notices, sched := (stopSending L s).sched
    table := { s.table with descriptors := (stopSending L s).table.descriptors } } := by
  cases sending : s.sendingOf L with
  | none => rw [stopSending_of_none sending]
  | some d =>
    by_cases below : (s.desc d).attempts < (s.sch L).attemptLimit
    · rw [stopSending_of_below sending below]; rfl
    · rw [stopSending_of_limit sending (Nat.not_lt.1 below), finishFailed_eq]; rfl

/-! ### The contexts that are abandoned (R86) -/

theorem assembling_of_assemblingOn {L : Link} {d : DescNo} {s : State} (h : HoldersSound s)
    (held : assemblingOn L d s) :
    (s.desc d).state = .assembling := by
  obtain ⟨e, c, hc, -, rfl⟩ := held
  exact (h.context e c hc).1

theorem abandonLink_desc_of_not_assembling {L : Link} {d : DescNo} {s : State} (h : HoldersSound s)
    (other : (s.desc d).state ≠ .assembling) : (abandonLink L s).desc d = s.desc d := by
  classical
  rw [abandonLink_desc, if_neg fun held => other (assembling_of_assemblingOn h held)]

/-- The abandoned contexts hold no outstanding message. -/
theorem abandonLink_desc_of_outstanding {L M : Link} {d : DescNo} {s : State} (h : HoldersSound s)
    (out : d ∈ (s.sch M).outstanding) : (abandonLink L s).desc d = s.desc d :=
  abandonLink_desc_of_not_assembling h fun assembling => by
    have := (h.outstanding M d out).1
    rw [assembling] at this
    cases this

/-- A link that has left its line, with its contexts abandoned and its port in OFF. -/
def leftLine (L : Link) (s : State) : State := (abandonLink L s).setPort L (offPort (s.port L))

theorem leftLine_sch (L M : Link) (s : State) : (leftLine L s).sch M = s.sch M :=
  congrArg (Table.look · M) (abandonLink_sched L s)

theorem leftLine_notices (L : Link) (s : State) : (leftLine L s).notices = s.notices := abandonLink_notices L s

theorem leftLine_pool (L : Link) (s : State) : (leftLine L s).pool = (returnBlocks (contextBlocks L s) s).pool := by
  rw [leftLine, State.setPort_pool, abandonLink_shape]

theorem leftLine_now (L : Link) (s : State) : (leftLine L s).now = s.now := by
  rw [leftLine, abandonLink_shape]
  rfl

theorem leftLine_sendingOf {s : State} (h : HoldersSound s) (L : Link) :
    (leftLine L s).sendingOf L = s.sendingOf L := by
  rw [State.sendingOf, leftLine_sch]
  refine List.find?_congr fun d hd => ?_
  rw [leftLine, State.setPort_desc, abandonLink_desc_of_outstanding h hd]

/-! ### The entry to OFF (R20) -/

theorem enterOff_eq_stopSending (L : Link) (s : State) :
    enterOff L s = { suspendDeadlines L (stopSending L (leftLine L s)) with
      notices := offered ⟨L, s.now, .linkStopped (contextsOf L s)⟩ (stopSending L (leftLine L s)).notices } := by
  rw [enterOff_eq, recordNotice_eq_offered]
  rfl

theorem enterOff_shape (L : Link) (s : State) : enterOff L s = { s with
    ports := s.ports.put L (offPort (s.port L)), pool := (enterOff L s).pool, notices := (enterOff L s).notices
    sched := (enterOff L s).sched, table := { s.table with descriptors := (enterOff L s).table.descriptors }
    reasm := { s.reasm with contexts := (enterOff L s).reasm.contexts } } := by
  have left : leftLine L s = { returnBlocks (contextBlocks L s) s with
      ports := s.ports.put L (offPort (s.port L))
      table := { s.table with descriptors := (leftLine L s).table.descriptors }
      reasm := { s.reasm with contexts := (leftLine L s).reasm.contexts } } := by
    rw [leftLine, abandonLink_shape]
    rfl
  rw [enterOff_eq_stopSending, stopSending_shape]
  generalize (stopSending L (leftLine L s)).pool = P
  generalize (stopSending L (leftLine L s)).notices = N
  generalize (stopSending L (leftLine L s)).sched = S
  generalize (stopSending L (leftLine L s)).table.descriptors = D
  rw [left]
  rfl

theorem enterOff_desc (L : Link) (s : State) (d : DescNo) :
    (enterOff L s).desc d = suspendedDescriptor L ((stopSending L (leftLine L s)).desc d) := by
  rw [enterOff_eq_stopSending]
  exact Table.look_mapAll ..

theorem suspendedDescriptor_of_not_waiting {L : Link} {x : Descriptor}
    (h : ¬ (x.link = L ∧ (x.state = .awaitAck ∨ x.state = .backoff))) : suspendedDescriptor L x = x := if_neg h

/-- The descriptors after the entry to OFF, in the states that they were in. -/
theorem enterOff_afterOff {s : State} (h : HoldersSound s) (L : Link) (d : DescNo) :
    afterOff L s d ((enterOff L s).desc d) := by
  classical
  have sendingHere (hd : s.sendingOf L = some d) : (s.desc d).link = L ∧ (s.desc d).state = .sending :=
    have found := sendingOf_eq_some hd
    ⟨(h.outstanding L d found.1).2, found.2⟩
  have same (other : ¬ assemblingOn L d s) : (leftLine L s).desc d = s.desc d := by
    rw [leftLine, State.setPort_desc, abandonLink_desc, if_neg other]
  have stopped : (enterOff L s).desc d = suspendedDescriptor L
      (if s.sendingOf L = some d then stoppedDescriptor L (leftLine L s) d else (leftLine L s).desc d) := by
    rw [enterOff_desc, stopSending_desc, leftLine_sendingOf h]
  have unsent (other : ¬ ((s.desc d).link = L ∧ (s.desc d).state = .sending)) :
      (enterOff L s).desc d = suspendedDescriptor L ((leftLine L s).desc d) := by
    rw [stopped, if_neg (mt sendingHere other)]
  have free (held : assemblingOn L d s) : ¬ (s.desc d).state ≠ .assembling :=
    not_not.2 (assembling_of_assemblingOn h held)
  refine ⟨fun held => ?_, fun link state => ?_, fun link state => ?_, fun other quiet => ?_⟩
  · have left : (leftLine L s).desc d = .cleared := by
      rw [leftLine, State.setPort_desc, abandonLink_desc, if_pos held]
    rw [unsent fun k => free held (by rw [k.2]; exact nofun), left]
    exact suspendedDescriptor_of_not_waiting (by simp [Descriptor.cleared])
  · have found : s.sendingOf L = some d := by
      cases hs : s.sendingOf L with
      | none => exact absurd link (not_sending_of_sendingOf h hs d state)
      | some d' =>
        obtain ⟨out, sending⟩ := sendingOf_eq_some hs
        rw [h.sendingOnce d d' state sending (link.trans (h.outstanding L d' out).2.symm)]
    have kept := same fun held => free held (by rw [state]; exact nofun)
    rw [stopped, if_pos found, stoppedDescriptor, kept, leftLine_sch]
    refine suspendedDescriptor_of_not_waiting ?_
    split <;> simp [Descriptor.cleared]
  · have waits : (s.desc d).state ≠ .sending ∧ (s.desc d).state ≠ .assembling := by
      obtain w | w := state <;> rw [w] <;> exact ⟨nofun, nofun⟩
    rw [unsent fun k => waits.1 k.2, same fun held => free held waits.2]
    exact if_pos ⟨link, state⟩
  · have unstopped (k : (s.desc d).link = L ∧ (s.desc d).state = .sending) : False :=
      quiet.elim (fun l => l k.1) fun w => w.1 k.2
    rw [unsent unstopped, same other]
    refine suspendedDescriptor_of_not_waiting fun k => ?_
    obtain l | ⟨-, a, b⟩ := quiet
    · exact l k.1
    · exact k.2.elim a b

/-- A link whose line is clear enters OFF with every effect of R20. -/
theorem enterOff_enteredOff {s : State} (h : HoldersSound s) {L : Link} (line : (s.sch L).lineRecord = none) :
    EnteredOff L (offPort (s.port L)) s.host s (enterOff L s) where
  descriptors := enterOff_afterOff h L
  contexts e := by
    rw [State.context, enterOff_reasm]
    exact abandonLink_context L s e
  sending d hd below := by
    have found := sendingOf_eq_some_iff.2 hd
    have kept : (leftLine L s).desc d = s.desc d := abandonLink_desc_of_outstanding h (sendingOf_eq_some found).1
    rw [enterOff_eq_stopSending, stopSending_of_below (d := d) (by rw [leftLine_sendingOf h, found])
      (by rw [kept, leftLine_sch]; exact below)]
    refine ⟨?_, ?_, ?_⟩
    · show Returned _ s.pool (leftLine L s).pool
      rw [leftLine_pool]
      exact returned_returnBlocks _ s
    · show offered _ (leftLine L s).notices = _
      rw [leftLine_notices]
    · show (leftLine L s).sched.put L _ = _
      rw [leftLine_sch, line]
      exact congrArg (Table.put · L _) (abandonLink_sched L s)
  failing d hd limit := by
    have found := sendingOf_eq_some_iff.2 hd
    have kept : (leftLine L s).desc d = s.desc d := abandonLink_desc_of_outstanding h (sendingOf_eq_some found).1
    rw [enterOff_eq_stopSending, stopSending_of_limit (d := d) (by rw [leftLine_sendingOf h, found])
      (by rw [kept, leftLine_sch]; exact limit), finishFailed_eq]
    refine ⟨?_, ?_, ?_⟩
    · show Returned _ s.pool (returnBlocks ((leftLine L s).desc d).chain (leftLine L s)).pool
      have pool : (returnBlocks ((leftLine L s).desc d).chain (leftLine L s)).pool =
          (returnBlocks (contextBlocks L s ++ (s.desc d).chain) s).pool := by
        rw [kept, returnBlocks_append]
        simp only [returnBlocks, leftLine_pool]
      rw [pool]
      exact returned_returnBlocks _ s
    · show offered _ (offered (failedNotice L d .stoppedAtLimit (leftLine L s)) (leftLine L s).notices) = _
      rw [leftLine_notices, failedNotice, kept, leftLine_now]
      rfl
    · show (leftLine L s).sched.put L (without d ((leftLine L s).sch L)) = _
      rw [leftLine_sch, without, line]
      exact congrArg (Table.put · L _) (abandonLink_sched L s)
  none quiet := by
    rw [enterOff_eq_stopSending, stopSending_of_none (by rw [leftLine_sendingOf h, sendingOf_eq_none.2 quiet])]
    refine ⟨?_, ?_, ?_⟩
    · show Returned _ s.pool (leftLine L s).pool
      rw [leftLine_pool]
      exact returned_returnBlocks _ s
    · show offered _ (leftLine L s).notices = _
      rw [leftLine_notices]
    · have clear : ({ s.sch L with lineRecord := none } : Scheduler) = s.sch L := by rw [← line]
      rw [clear]
      exact (abandonLink_sched L s).trans (Table.put_look ..).symm
  rest := enterOff_shape L s

/-- The entry to OFF does not look at the port and the command registers that stood before. -/
theorem enteredOff_of_setPort {L : Link} {p q : LinkPort} {h h' : HostPort} {s t : State}
    (entered : EnteredOff L p h (s.setPort L q) t) : EnteredOff L p h' s { t with host := h' } where
  descriptors := entered.descriptors
  contexts := entered.contexts
  sending := entered.sending
  failing := entered.failing
  none := entered.none
  rest := by
    have shape := entered.rest
    rw [State.setPort, Table.put_put] at shape
    rw [shape]

/-! ### Frame end in STOPPING (R16) -/

theorem reportFrameEnd_of_not_sending {L : Link} {s : State} {n : Nat} {d : DescNo}
    (line : (s.sch L).lineRecord = some ⟨n, some d⟩) (other : (s.desc d).state ≠ .sending) :
    reportFrameEnd L s = clearLine L s := by
  simp [reportFrameEnd, line, other]

theorem fragmentSent_withPorts (L : Link) (d : DescNo) (n : Nat) (s : State) (p : Table LinkPort 4) :
    fragmentSent L d n { s with ports := p } = { fragmentSent L d n s with ports := p } := by
  by_cases more : n + 1 < (s.desc d).fragmentCount.getD 1
  · rw [fragmentSent_of_more more, fragmentSent_of_more (by exact more)]
    rfl
  · have last := Nat.not_lt.1 more
    cases broadcast : (s.desc d).broadcast with
    | false =>
      rw [fragmentSent_of_unicast last broadcast, fragmentSent_of_unicast (by exact last) (by exact broadcast)]
      rfl
    | true =>
      rw [fragmentSent_of_broadcast last broadcast, fragmentSent_of_broadcast (by exact last) (by exact broadcast),
        finishDone_eq, finishDone_eq]
      rfl

/-- The report of a frame end does not look at the ports. -/
theorem reportFrameEnd_withPorts (L : Link) (s : State) (p : Table LinkPort 4) :
    reportFrameEnd L { s with ports := p } = { reportFrameEnd L s with ports := p } := by
  match line : (s.sch L).lineRecord with
  | none =>
    rw [reportFrameEnd_of_no_descriptor (.inl line), reportFrameEnd_of_no_descriptor (.inl (by exact line))]
    rfl
  | some ⟨n, none⟩ =>
    rw [reportFrameEnd_of_no_descriptor (.inr ⟨n, line⟩), reportFrameEnd_of_no_descriptor (.inr ⟨n, by exact line⟩)]
    rfl
  | some ⟨n, some d⟩ =>
    by_cases sending : (s.desc d).state = .sending
    · rw [reportFrameEnd_of_sending line sending, reportFrameEnd_of_sending (by exact line) (by exact sending),
        fragmentSent_withPorts]
      rfl
    · rw [reportFrameEnd_of_not_sending line sending, reportFrameEnd_of_not_sending (by exact line) (by exact sending)]
      rfl

/-- The state with link `L` in the link state given. -/
def inState (L : Link) (st : LinkState) (s : State) : State := s.setPort L { s.port L with state := st }

theorem inState_inState (L : Link) (a b : LinkState) (s : State) : inState L b (inState L a s) = inState L b s := by
  simp [inState]

theorem inState_self {L : Link} {s : State} {st : LinkState} (h : (s.port L).state = st) : inState L st s = s := by
  rw [inState, ← h]
  exact State.setPort_port_eq ..

theorem enterGap_inState (L : Link) (st : LinkState) (s : State) :
    enterGap L (inState L st s) = inState L st (enterGap L s) := by simp [inState, enterGap]

theorem reportFrameEnd_inState (L : Link) (st : LinkState) (s : State) :
    reportFrameEnd L (inState L st s) = inState L st (reportFrameEnd L s) := by
  refine (reportFrameEnd_withPorts L s _).trans ?_
  rw [inState, State.setPort, State.port, State.port, reportFrameEnd_ports]

theorem reportFrameEnd_enterGap_state (L : Link) (s : State) :
    ((reportFrameEnd L (enterGap L s)).port L).state = (s.port L).state := by
  rw [State.port, reportFrameEnd_ports]
  simp [enterGap, State.setPort]

theorem endFrame_of_stopping {L : Link} {s : State} (stopping : (s.port L).state = .stopping) :
    endFrame L s = enterOff L (reportFrameEnd L (enterGap L s)) :=
  if_pos ((reportFrameEnd_enterGap_state L s).trans stopping)

/-- Settles O31: the entry to OFF starts from the state that the stop or the report has left. -/
theorem stoppingLinkEntersOff : Obligations.StoppingLinkEntersOff := by
  intro s L holders
  refine ⟨fun operational named run idle line => ?_, fun stopping active => ?_⟩
  · let v := s.setPort L (stoppingPort (s.port L))
    have stops : Keeps s v := setPort_keeps nofun
    have entered := enterOff_enteredOff (stops.holders holders) (L := L) line
    have port : v.port L = stoppingPort (s.port L) := State.setPort_port_self ..
    rw [port] at entered
    have host : (enterOff L v).host = s.host := (congrArg State.host entered.rest).trans rfl
    refine ⟨{ enterOff L v with host := answered 0x02 .ok s }, ?_, enteredOff_of_setPort entered⟩
    rw [exec_linkStop operational, linkStopBody_of_run named run, stopLink_eq, if_neg idle, recordOutcome, host]
    rfl
  · let v := reportFrameEnd L (enterGap L s)
    let u := inState L .run v
    have running : exec (.frameEnd L) (inState L .run s) = .next u := by
      have port : (inState L .run s).port L = { s.port L with state := .run } := State.setPort_port_self ..
      rw [exec_frameEnd (by rw [port]; exact active), endFrame_eq_report (by rw [port]; exact nofun),
        enterGap_inState, reportFrameEnd_inState]
    have stopped : inState L .stopping u = v :=
      (inState_inState ..).trans (inState_self ((reportFrameEnd_enterGap_state L s).trans stopping))
    have sound : HoldersSound v :=
      ((reportFrameEnd_keeps L _).after (setPort_keeps_of_state rfl : Keeps s (enterGap L s))).holders holders
    have entered := enterOff_enteredOff sound (reportFrameEnd_line L _)
    have port : offPort (v.port L) = offPort (u.port L) := by rw [← stopped, inState, State.setPort_port_self]; rfl
    refine ⟨u, enterOff L v, running, ?_, ?_⟩
    · rw [exec_frameEnd active, endFrame_of_stopping stopping]
    · show EnteredOff L (offPort (u.port L)) u.host (inState L .stopping u) (enterOff L v)
      rw [stopped, ← port]
      exact entered

end Sys2Proof.Steps
end

section
/-! PROOFS. LINK RESET (R21, R44, R60, R87, R166, R177). -/

namespace Sys2Proof.Steps

open Sys2Proof.Machine Sys2Proof.Safety Sys2Proof.Statement

/-! ### The messages that are freed (R44) -/

theorem freeMessages_append (ds ds' : List DescNo) (s : State) :
    freeMessages (ds ++ ds') s = freeMessages ds' (freeMessages ds s) := by
  induction ds generalizing s with
  | nil => rfl
  | cons d ds ih => exact ih _

theorem freeMessages_setReady (ds : List DescNo) (L : Link) (q : List DescNo) (s : State) :
    freeMessages ds (s.setReady L q) = (freeMessages ds s).setReady L q := by
  induction ds generalizing s with
  | nil => rfl
  | cons d ds ih => exact ih (freeMessage d s)

theorem freeMessages_setHistory (ds : List DescNo) (L : Link) (h : List Key) (s : State) :
    freeMessages ds (s.setHistory L h) = (freeMessages ds s).setHistory L h := by
  induction ds generalizing s with
  | nil => rfl
  | cons d ds ih => exact ih (freeMessage d s)

theorem freeLink_eq (L : Link) (s t : State) :
    freeLink L s t = ((freeMessages (resetMessages L s) t).setHistory L []).setReady L [] := by
  simp only [freeLink, resetMessages, freeMessages_append, freeMessages_setReady, freeMessages_setHistory]

/-- Messages freed one after another return their chains; beyond the pool they change descriptors alone. -/
theorem freeMessages_shape {ds : List DescNo} (nodup : ds.Nodup) (s : State) :
    freeMessages ds s = { returnBlocks (chainsOf ds s) s with
      table := { s.table with descriptors := (freeMessages ds s).table.descriptors } } := by
  obtain ⟨D, -, freed⟩ := freeMessages_eq ds nodup s
  rw [freed]
  rfl

theorem mem_resetMessages {L : Link} {s : State} {d : DescNo} :
    d ∈ resetMessages L s ↔ d ∈ s.ready L ∨ d ∈ (s.sch L).outboundQueue ∨ d ∈ (s.sch L).outstanding := by
  simp [resetMessages, mem_outstandingAscending]

/-- The state of a descriptor says which list of its link holds it. -/
theorem resetMessages_nodup {s : State} (h : HoldersSound s) (L : Link) : (resetMessages L s).Nodup := by
  have queued {d : DescNo} (hd : d ∈ (s.sch L).outboundQueue) : d ∉ s.ready L := fun ready => by
    have := (h.queued L d hd).1.symm.trans (h.ready L d ready).1
    cases this
  have outstanding {d : DescNo} (hd : d ∈ (s.sch L).outstanding) :
      d ∉ s.ready L ∧ d ∉ (s.sch L).outboundQueue := by
    have out := (h.outstanding L d hd).1
    refine ⟨fun ready => ?_, fun queue => ?_⟩
    · rw [(h.ready L d ready).1] at out; cases out
    · rw [(h.queued L d queue).1] at out; cases out
  rw [resetMessages, List.nodup_append', List.nodup_append']
  refine ⟨⟨h.readyOnce L, h.queuedOnce L, fun d ready queue => queued queue ready⟩,
    (List.nodup_finRange 96).filter _, fun d earlier out => ?_⟩
  obtain ⟨ready, queue⟩ := outstanding (mem_outstandingAscending.1 out)
  exact (List.mem_append.1 earlier).elim ready queue

theorem not_assembling_of_resetMessages {s : State} (h : HoldersSound s) {L : Link} {d : DescNo}
    (hd : d ∈ resetMessages L s) : (s.desc d).state ≠ .assembling := by
  obtain ready | queue | out := mem_resetMessages.1 hd
  · rw [(h.ready L d ready).1]; exact nofun
  · rw [(h.queued L d queue).1]; exact nofun
  · intro assembling
    have := (h.outstanding L d out).1
    rw [assembling] at this
    cases this

/-- The abandoned contexts hold no message of a list, so the chains returned are those that stood before. -/
theorem chainsOf_abandonLink {s : State} (h : HoldersSound s) (L : Link) :
    chainsOf (resetMessages L s) (abandonLink L s) = chainsOf (resetMessages L s) s :=
  List.flatMap_congr fun d hd => by
    rw [abandonLink_desc_of_not_assembling h (not_assembling_of_resetMessages h hd)]

/-! ### LINK RESET -/

/-- A link whose contexts and messages have been freed. -/
def freedLink (L : Link) (s : State) : State := freeMessages (resetMessages L s) (abandonLink L s)

theorem freedLink_desc (L : Link) (s : State) (d : DescNo) [Decidable (assemblingOn L d s)] :
    (freedLink L s).desc d =
      if d ∈ resetMessages L s then .cleared else if assemblingOn L d s then .cleared else s.desc d := by
  rw [freedLink, freeMessages_desc, abandonLink_desc]

theorem freedLink_shape {s : State} (h : HoldersSound s) (L : Link) :
    freedLink L s = { returnBlocks (contextBlocks L s ++ chainsOf (resetMessages L s) s) s with
      table := { s.table with descriptors := (freedLink L s).table.descriptors }
      reasm := { s.reasm with contexts := (abandonLink L s).reasm.contexts } } := by
  rw [freedLink, freeMessages_shape (resetMessages_nodup h L), chainsOf_abandonLink h, returnBlocks_append]
  generalize (freeMessages (resetMessages L s) (abandonLink L s)).table.descriptors = D
  rw [abandonLink_shape L s]
  rfl

theorem resetLink_shape {s : State} (h : HoldersSound s) (L : Link) :
    resetLink L s = { s with
      ports := s.ports.put L (resetPort (s.port L))
      sched := s.sched.put L (emptiedScheduler (s.sch L))
      pool := (returnBlocks (contextBlocks L s ++ chainsOf (resetMessages L s) s) s).pool
      notices := offered ⟨L, s.now, .linkReset (contextsOf L s) (s.ready L).length
        ((s.sch L).outboundQueue.length + (s.sch L).outstanding.length)⟩ s.notices
      table := { descriptors := (freedLink L s).table.descriptors, readyQueue := s.table.readyQueue.put L [] }
      reasm := { s.reasm with
        contexts := (abandonLink L s).reasm.contexts, history := s.reasm.history.put L [] } } := by
  rw [resetLink_eq, recordNotice_eq_offered, freeLink_eq, ← freedLink]
  generalize freedLink L s = f, freedLink_shape h L = shape
  rw [shape]
  rfl

theorem exec_linkReset {s : State} (operational : s.operational) :
    exec .linkReset s = .next (recordOutcome 0x03 (linkResetBody s).2 (linkResetBody s).1) :=
  congrArg Host.Outcome.next (issueCommand_operational operational)

/-- Settles O32: the contexts and the messages of the link are freed, its lists emptied and its port reset. -/
theorem linkResetClearsTheLink : Obligations.LinkResetClearsTheLink := by
  classical
  intro s operational
  refine ⟨fun large => ?_, fun L holders named => ?_⟩
  · rw [exec_linkReset operational, linkResetBody, linkParameter_eq_none.2 large]
    rfl
  · have shape := resetLink_shape holders L
    have body : linkResetBody s = (resetLink L s, .ok) := by rw [linkResetBody, linkParameter_eq_some.2 named]
    have freed (d : DescNo) : (recordOutcome 0x03 .ok (resetLink L s)).desc d =
        if d ∈ resetMessages L s then .cleared else if assemblingOn L d s then .cleared else s.desc d := by
      rw [← freedLink_desc, shape]
      rfl
    refine ⟨recordOutcome 0x03 .ok (resetLink L s), ?_, ?_, fun d held => ?_, fun d other => ?_, fun e => ?_, ?_, ?_⟩
    · rw [exec_linkReset operational, body]
    · have chains : contextBlocks L s ++ chainsOf (resetMessages L s) s = contextBlocks L s ++ chainsOf (s.ready L) s ++
          chainsOf (s.sch L).outboundQueue s ++ chainsOf (s.outstandingAscending L) s := by
        simp only [chainsOf, resetMessages, List.flatMap_append, List.append_assoc]
      rw [shape]
      exact chains ▸ returned_returnBlocks (contextBlocks L s ++ chainsOf (resetMessages L s) s) s
    · rw [freed]
      obtain assembling | message := held
      · rw [if_pos assembling, ite_self]
      · rw [if_pos (mem_resetMessages.2 message)]
    · obtain ⟨assembling, message⟩ := not_or.1 other
      rw [freed, if_neg (mt mem_resetMessages.1 message), if_neg assembling]
    · rw [shape]
      exact abandonLink_context L s e
    · rw [shape]
      rfl
    · rw [shape]
      rfl

end Sys2Proof.Steps
end

section
/-! PROOFS. The format check and the address filter (R11, R12). -/

namespace Sys2Proof.Steps

open Sys2Proof.Machine Sys2Proof.Safety Sys2Proof.Statement

/-! ### The bits of a fragment byte (R4) -/

theorem finalFlag_iff (b : Byte) : finalFlag b = true ↔ 128 ≤ b.toNat := by
  rw [finalFlag, show b.getLsbD 7 = b.msb from (BitVec.msb_eq_getLsbD_last b).symm, BitVec.msb_eq_decide]
  exact decide_eq_true_iff

theorem reservedBits_iff (b : Byte) : reservedBits b = true ↔ b.toNat / 16 % 8 ≠ 0 := by
  have bytes : ∀ n : Fin 256, reservedBits (BitVec.ofNat 8 n.val) = true ↔ n.val / 16 % 8 ≠ 0 := by decide +kernel
  simpa using bytes ⟨b.toNat, b.isLt⟩

theorem fragmentNumber_ne_zero (b : Byte) : fragmentNumber b ≠ 0 ↔ b.toNat % 16 ≠ 0 := by
  rw [Ne, Ne, Fin.ext_iff]
  rfl

theorem byte_eq_iff {b : Byte} {n : Nat} (h : n < 256) : b = BitVec.ofNat 8 n ↔ b.toNat = n := by
  rw [← BitVec.toNat_inj, BitVec.toNat_ofNat, Nat.mod_eq_of_lt h]

/-- The payload of a REFUSE that the format allows is one of its two reasons (R5, R11). -/
theorem reasonPayload_iff (p : List Byte) :
    (p.length ≠ 1 ∨ ¬ (p.getD 0 0 = 1 ∨ p.getD 0 0 = 2)) ↔ p ≠ [1] ∧ p ≠ [2] := by
  match p with
  | [] => simp
  | [b] => simp
  | _ :: _ :: _ => simp

theorem breaksFormat_iff (own : Nat) (f : Frame) : breaksFormat own f = true ↔
    ((f.kind ≠ 0x31 ∧ f.kind ≠ 0x32 ∧ f.kind ≠ 0x33) ∨
      63 < f.tag.toNat ∨
      (f.fragmentByte.toNat / 16) % 8 ≠ 0 ∨
      (f.origin.toNat = 0 ∨ f.origin.toNat = 255 ∨ f.origin.toNat = own) ∨
      f.destination.toNat = 0 ∨
      (f.kind = 0x32 ∧ (f.payload ≠ [] ∨ f.fragmentByte.toNat ≠ 0)) ∨
      (f.kind = 0x33 ∧ ((f.payload ≠ [1] ∧ f.payload ≠ [2]) ∨ f.fragmentByte.toNat ≠ 0)) ∨
      ((f.kind = 0x32 ∨ f.kind = 0x33) ∧ f.destination.toNat = 255) ∨
      (f.kind = 0x31 ∧ f.fragmentByte.toNat < 128 ∧ f.payload.length ≠ 64) ∨
      (f.kind = 0x31 ∧ 128 ≤ f.fragmentByte.toNat ∧ f.payload = [] ∧ f.fragmentByte.toNat % 16 ≠ 0)) := by
  have zero (b : Byte) : b = 0 ↔ b.toNat = 0 := byte_eq_iff (by decide)
  have all (b : Byte) : b = Config.allStations ↔ b.toNat = 255 := byte_eq_iff (by decide)
  simp only [breaksFormat, Bool.or_eq_true, Bool.and_eq_true, Bool.not_eq_true', beq_iff_eq, bne_iff_ne,
    decide_eq_true_eq, finalFlag_iff, reservedBits_iff, fragmentNumber_ne_zero, ← Bool.not_eq_true,
    ← reasonPayload_iff, all, Nat.not_le]
  simp only [Config.kindData, Config.kindAck, Config.kindRefuse, Config.blockSize, or_assoc, and_assoc, not_or, ne_eq,
    List.length_eq_zero_iff, zero]

/-- Settles O15: each condition of the model in the numbers of the fields. -/
theorem formatAndFilterAreTheListedConditions : Obligations.FormatAndFilterAreTheListedConditions := by
  intro own accept f
  refine ⟨breaksFormat_iff own f, ?_⟩
  have all : f.destination = Config.allStations ↔ f.destination.toNat = 255 := byte_eq_iff (by decide)
  simp only [passesFilter, Bool.or_eq_true, Bool.and_eq_true, beq_iff_eq, all, and_assoc]

end Sys2Proof.Steps
end

section
/-! PROOFS. Event commands whose cause does not hold (R7 to R9, R13, R14, R16, R28, R30, R66, R152). -/

namespace Sys2Proof.Steps

open Sys2Proof.Machine Sys2Proof.Safety Sys2Proof.Statement

theorem receiving_eq_false {L : Link} {s : State} {p : RxProgress} :
    s.receiving L p = false ↔ (s.port L).receiver ≠ .frame ∨ rxProgress (s.port L).rxBuffer ≠ p := by
  rw [Bool.eq_false_iff, Ne, receiving_iff, not_and_or]

theorem receiving_of_not_frame {L : Link} {s : State} (h : (s.port L).receiver ≠ .frame) (p : RxProgress) :
    s.receiving L p = false := receiving_eq_false.2 (.inl h)

theorem discardOversized_of_not {L : Link} {s : State} (h : s.receiving L .oversized = false) :
    discardOversized L s = s := by simp [discardOversized, h]

theorem truncateFrame_of_not {L : Link} {s : State} (h : s.receiving L .unfinished = false) :
    truncateFrame L s = s := by simp [truncateFrame, h]

theorem takeHandedFragment_of_not {L : Link} {s : State} (h : ∀ f, ¬ Taking L f s) : takeHandedFragment L s = s := by
  unfold takeHandedFragment
  split
  · next f handed => exact if_neg fun run => h f ⟨handed, run⟩
  · rfl

theorem takeHandedAck_of_not {L : Link} {s : State}
    (h : ∀ origin tag, (s.port L).handedOver ≠ some (.ack origin tag)) : takeHandedAck L s = s := by
  unfold takeHandedAck
  split
  · next handed => exact absurd handed (h _ _)
  · rfl

theorem takeHandedRefuse_of_not {L : Link} {s : State}
    (h : ∀ origin tag reason, (s.port L).handedOver ≠ some (.refuse origin tag reason)) :
    takeHandedRefuse L s = s := by
  unfold takeHandedRefuse
  split
  · next handed => exact absurd handed (h _ _ _)
  · rfl

theorem lifetimeExpiry_of_not_due {e : EntryNo} {s : State} (h : ∀ c, s.context e = some c → c.deadline ≠ s.now) :
    lifetimeExpiry e s = s := by
  obtain same | ⟨c, hc, due, -⟩ := lifetimeExpiry_eq e s
  · exact same
  · exact absurd due (h c hc)

theorem waitDue_eq_false {s : State} {w : DescState} {d : DescNo}
    (h : (s.desc d).state ≠ w ∨ (s.desc d).deadline ≠ some (.armed s.now)) : s.waitDue w d = false := by
  simp only [State.waitDue, Bool.and_eq_false_iff, beq_eq_false_iff_ne]
  exact h

theorem receiveError_of_not_receiving {L : Link} {s : State}
    (h : (s.port L).receiver = .disabled ∨ (s.port L).receiver = .hunt) : receiveError L s = s := by
  have frame : (s.port L).receiver ≠ .frame := by obtain h | h := h <;> rw [h] <;> exact nofun
  rw [receiveError, concludeFrame_of_not (receiving_of_not_frame frame _) (receiving_of_not_frame frame _), hearError]
  obtain h | h := h <;> rw [h]

/-- Settles O8: the guard of each event is its cause. -/
theorem eventsWithoutTheirCauseChangeNothing : Obligations.EventsWithoutTheirCauseChangeNothing := by
  intro c s cause
  have stays {t : State} (h : t = s) : Host.Outcome.next (φ := Fault) (ρ := Refusal) t = .next s := congrArg _ h
  cases c <;> try exact cause.elim
  case freeListRebuilt =>
    refine stays (if_neg ?_)
    obtain ready | low := cause <;> simp [State.rebuilding, *]
  case tick => exact stays (takeTick_low cause)
  case agePulse => exact stays (if_neg (Nat.not_lt.2 (Nat.le_zero.2 cause)))
  case contextLifetimeExpiry e => exact stays (lifetimeExpiry_of_not_due cause)
  case acknowledgementWaitExpiry d => exact stays (if_neg (Bool.eq_false_iff.1 (waitDue_eq_false cause)))
  case refuseBackoffExpiry d => exact stays (if_neg (Bool.eq_false_iff.1 (waitDue_eq_false cause)))
  case settlingGapEnd L => exact stays (if_neg cause)
  case rxFrameComplete L =>
    exact stays (finishFrame_of_not (receiving_eq_false.2 (cause.imp_right (mt rxProgress_eq_complete.1))))
  case truncation L =>
    exact stays (truncateFrame_of_not (receiving_eq_false.2 (cause.imp_right (mt rxProgress_eq_unfinished.1))))
  case characterError L => exact stays (receiveError_of_not_receiving cause)
  case oversizedPayloadLength L =>
    exact stays (discardOversized_of_not (receiving_eq_false.2 (cause.imp_right (mt rxProgress_eq_oversized.1))))
  case fragment L => exact stays (takeHandedFragment_of_not cause)
  case ackReceived L => exact stays (takeHandedAck_of_not cause)
  case refuseReceived L => exact stays (takeHandedRefuse_of_not cause)
  case frameEnd L => exact stays (if_neg cause)
  case txGapEnd L =>
    refine stays (if_neg fun gap => ?_)
    obtain other | low := cause
    · exact other gap.1
    · exact absurd gap.2 (by simp [low])

end Sys2Proof.Steps
end

section
/-! PROOFS. A complete frame: its check, its classification, and the hand-off (R6, R8, R10 to R13). -/

namespace Sys2Proof.Steps

open Sys2Proof.Machine Sys2Proof.Safety Sys2Proof.Statement

/-! ### What takes a frame that is handed over, hands nothing over (R13) -/

/-- No link's handed-over frame has changed. -/
structure KeepsHanded (s t : State) : Prop where
  same : ∀ L, (t.port L).handedOver = (s.port L).handedOver

theorem KeepsHanded.refl (s : State) : KeepsHanded s s := ⟨fun _ => rfl⟩

/-- Two changes, the last one first. -/
theorem KeepsHanded.after {s t u : State} (k : KeepsHanded t u) (h : KeepsHanded s t) : KeepsHanded s u :=
  ⟨fun L => (k.same L).trans (h.same L)⟩

theorem keepsHanded_of_ports {s t : State} (h : t.ports = s.ports) : KeepsHanded s t := ⟨fun L => by
  rw [State.port, h, State.port]⟩

theorem setPort_keepsHanded {L : Link} {p : LinkPort} {s : State} (h : p.handedOver = (s.port L).handedOver) :
    KeepsHanded s (s.setPort L p) := ⟨fun M => by
  rw [State.setPort_port]
  split
  · next same => rw [h, same]
  · rfl⟩

theorem count_keepsHanded (L : Link) (c : CounterName) (s : State) : KeepsHanded s (count L c s) :=
  setPort_keepsHanded rfl

theorem joinRequest_keepsHanded (L : Link) (r : Request) (s : State) : KeepsHanded s (joinRequest L r s) := by
  rw [joinRequest_eq]
  split <;> exact setPort_keepsHanded rfl

theorem answerFragment_keepsHanded (L : Link) (f : Fragment) (k : RequestKind) (s : State) :
    KeepsHanded s (answerFragment L f k s) := by
  unfold answerFragment
  split
  · exact joinRequest_keepsHanded L _ s
  · exact .refl s

theorem dropFragment_keepsHanded (L : Link) (c : CounterName) (f : Fragment) (k : RequestKind) (s : State) :
    KeepsHanded s (answerFragment L f k (setLoss L (count L c s))) :=
  have lost (t : State) : KeepsHanded t (setLoss L t) := setPort_keepsHanded rfl
  (answerFragment_keepsHanded L f k _).after ((lost _).after (count_keepsHanded L c s))

theorem completeContext_keepsHanded (e : EntryNo) (c : Context) (s : State) :
    KeepsHanded s (completeContext e c s) := by
  simp only [completeContext]
  split
  · exact keepsHanded_of_ports rfl
  · exact (joinRequest_keepsHanded ..).after (keepsHanded_of_ports rfl)

theorem storeFragment_keepsHanded (e : EntryNo) (c : Context) (f : Fragment) (b : Option BlockNo) (s : State) :
    KeepsHanded s (storeFragment e c f b s) := by
  rw [storeFragment_eq]
  dsimp only
  split
  · exact (completeContext_keepsHanded ..).after (keepsHanded_of_ports rfl)
  · exact keepsHanded_of_ports rfl

theorem createContext_keepsHanded (L : Link) (f : Fragment) (s : State) : KeepsHanded s (createContext L f s) := by
  unfold createContext
  split
  · exact dropFragment_keepsHanded ..
  · split
    · split
      · exact dropFragment_keepsHanded ..
      · next hd =>
        obtain ⟨-, rfl⟩ := claimDescriptor_eq_some.1 hd
        split
        · exact (storeFragment_keepsHanded ..).after (keepsHanded_of_ports rfl)
        · split
          · exact (dropFragment_keepsHanded ..).after (keepsHanded_of_ports rfl)
          · next hb =>
            obtain ⟨_, -, rfl⟩ := grantBlock_eq_some.1 (reassemblyClaim_eq_some.1 hb).2.2
            exact (storeFragment_keepsHanded ..).after (keepsHanded_of_ports rfl)
    · exact dropFragment_keepsHanded ..

theorem continueContext_keepsHanded (L : Link) (e : EntryNo) (c : Context) (f : Fragment) (s : State) :
    KeepsHanded s (continueContext L e c f s) := by
  unfold continueContext
  split
  · exact count_keepsHanded L _ s
  · split
    · exact keepsHanded_of_ports (by rw [abandonMalformed, recordNotice_eq, abandonContext_shape]; rfl)
    · split
      · exact storeFragment_keepsHanded ..
      · split
        · exact dropFragment_keepsHanded ..
        · next hb =>
          obtain ⟨_, -, rfl⟩ := grantBlock_eq_some.1 (reassemblyClaim_eq_some.1 hb).2.2
          exact (storeFragment_keepsHanded ..).after (keepsHanded_of_ports rfl)

theorem takeFragment_keepsHanded (L : Link) (f : Fragment) (s : State) : KeepsHanded s (takeFragment L f s) := by
  unfold takeFragment
  split
  · exact (answerFragment_keepsHanded ..).after (count_keepsHanded L _ s)
  · split
    · exact createContext_keepsHanded L f s
    · split
      · exact continueContext_keepsHanded ..
      · exact .refl s

theorem takeAck_keepsHanded (L : Link) (origin : Byte) (tag : Tag) (s : State) :
    KeepsHanded s (takeAck L origin tag s) := by
  unfold takeAck
  split
  · exact keepsHanded_of_ports (finishDone_ports ..)
  · exact count_keepsHanded L _ s

theorem takeRefuse_keepsHanded (L : Link) (origin : Byte) (tag : Tag) (r : RefuseReason) (s : State) :
    KeepsHanded s (takeRefuse L origin tag r s) := by
  unfold takeRefuse
  split
  · split
    · split
      · exact keepsHanded_of_ports rfl
      · exact keepsHanded_of_ports (finishFailed_ports ..)
    · exact count_keepsHanded L _ s
  · exact count_keepsHanded L _ s

/-- A link in RUN has no frame handed over once its blocks have taken it (R13). -/
theorem takeHandedOver_handedOver {L : Link} {s : State} (run : (s.port L).state = .run) :
    ((takeHandedOver L s).port L).handedOver = none := by
  have cleared : ((clearHandedOver L s).port L).handedOver = none := by
    rw [clearHandedOver, State.setPort_port_self]
  match handed : (s.port L).handedOver with
  | none => rw [takeHandedOver_of_none handed, handed]
  | some (.data f) =>
    have fragment : takeHandedFragment L s = takeFragment L f (clearHandedOver L s) := by
      simp [takeHandedFragment, handed, run]
    have taken : ((takeFragment L f (clearHandedOver L s)).port L).handedOver = none :=
      ((takeFragment_keepsHanded L f _).same L).trans cleared
    rw [takeHandedOver, fragment, takeHandedAck_of_not (by rw [taken]; exact nofun),
      takeHandedRefuse_of_not (by rw [taken]; exact nofun), taken]
  | some (.ack origin tag) =>
    have ack : takeHandedAck L s = takeAck L origin tag (clearHandedOver L s) := by simp [takeHandedAck, handed]
    have taken : ((takeAck L origin tag (clearHandedOver L s)).port L).handedOver = none :=
      ((takeAck_keepsHanded L origin tag _).same L).trans cleared
    have other (f : Fragment) : ¬ Taking L f s := fun k => nomatch handed.symm.trans k.1
    rw [takeHandedOver, takeHandedFragment_of_not other, ack,
      takeHandedRefuse_of_not (by rw [taken]; exact nofun), taken]
  | some (.refuse origin tag r) =>
    have refuse : takeHandedRefuse L s = takeRefuse L origin tag r (clearHandedOver L s) := by
      simp [takeHandedRefuse, handed]
    have other (f : Fragment) : ¬ Taking L f s := fun k => nomatch handed.symm.trans k.1
    rw [takeHandedOver, takeHandedFragment_of_not other, takeHandedAck_of_not (by rw [handed]; exact nofun), refuse]
    exact ((takeRefuse_keepsHanded L origin tag r _).same L).trans cleared

theorem inTurn_takings {L : Link} {s t : State} : inTurn (takings L) s t ↔ t = takeHandedOver L s := by
  refine ⟨fun ⟨_, a, _, b, _, c, d⟩ => ?_, fun h => ⟨_, rfl, _, rfl, _, rfl, h.symm⟩⟩
  cases a; cases b; cases c
  exact d.symm

/-! ### A complete frame (R10 to R13) -/

theorem receiving_complete {L : Link} {s : State} (frame : (s.port L).receiver = .frame)
    (complete : Complete (s.port L).rxBuffer) : s.receiving L .complete = true :=
  receiving_iff.2 ⟨frame, rxProgress_eq_complete.2 complete⟩

theorem exec_rxFrameComplete {L : Link} {s : State} (frame : (s.port L).receiver = .frame)
    (complete : Complete (s.port L).rxBuffer) :
    exec (.rxFrameComplete L) s = .next (completeFrame L (takeHandedOver L s)) :=
  congrArg Host.Outcome.next (if_pos (receiving_complete frame complete))

/-- What an accepted frame is handed over as, when its format is right (R11, R13). -/
theorem handOver_eq {own : Nat} {f : Frame} (format : ¬ breaksFormat own f = true) :
    handOver f =
      if f.kind = 0x32 then .ack f.origin (Fin.ofNat 64 f.tag.toNat)
      else if f.kind = 0x33 then
        .refuse f.origin (Fin.ofNat 64 f.tag.toNat) (if f.payload = [1] then .noContext else .noBlock)
      else .data ⟨f.origin, decide (f.destination = 255), Fin.ofNat 64 f.tag.toNat,
        Fin.ofNat 16 f.fragmentByte.toNat, decide (128 ≤ f.fragmentByte.toNat), f.payload⟩ := by
  have final : finalFlag f.fragmentByte = decide (128 ≤ f.fragmentByte.toNat) :=
    Bool.eq_iff_iff.2 ((finalFlag_iff _).trans decide_eq_true_iff.symm)
  simp only [handOver, beq_iff_eq, final, fragmentNumber]
  split
  · rfl
  · split
    · next refuse =>
      simp only [breaksFormat_iff, not_or, not_and] at format
      obtain ⟨-, -, -, -, -, -, refused, -⟩ := format
      by_cases one : f.payload = [1]
      · simp [one]
      · have two : f.payload = [2] := not_not.1 ((refused refuse).1 one)
        simp [two]
    · congr 2

theorem classify_of_bad {own : Nat} {accept : Bool} {bytes : List Byte} (bad : ¬ checkMatches bytes = true) :
    classify own accept bytes = .checkError := by simp [classify, bad]

section
variable {own : Nat} {accept : Bool} {bytes : List Byte} (good : checkMatches bytes = true)
include good

theorem classify_of_broken (broken : breaksFormat own (frameOf bytes) = true) :
    classify own accept bytes = .formatError := by simp [classify, good, broken]

theorem classify_of_other (format : ¬ breaksFormat own (frameOf bytes) = true)
    (other : ¬ passesFilter own accept (frameOf bytes) = true) : classify own accept bytes = .ignored := by
  simp [classify, good, format, other]

theorem classify_of_mine (format : ¬ breaksFormat own (frameOf bytes) = true)
    (mine : passesFilter own accept (frameOf bytes) = true) :
    classify own accept bytes = .accepted (handOver (frameOf bytes)) := by
  simp [classify, good, format, mine]

end

/-- The port of a link whose receiver hunts again after a frame so classified. -/
def classifiedPort (p : LinkPort) : Classified → LinkPort
  | .checkError => counted .checkErrors { p with receiver := .hunt, rxBuffer := [] }
  | .formatError => counted .formatErrors { p with receiver := .hunt, rxBuffer := [] }
  | .ignored => { p with receiver := .hunt, rxBuffer := [] }
  | .accepted h => { p with receiver := .hunt, rxBuffer := [], handedOver := some h, handedPeriods := 0 }

theorem completeFrame_eq (L : Link) (s : State) :
    completeFrame L s = s.setPort L (classifiedPort (s.port L)
      (classify (s.port L).stationAddress (s.port L).acceptBroadcast (s.port L).rxBuffer)) := by
  unfold completeFrame
  cases classify (s.port L).stationAddress (s.port L).acceptBroadcast (s.port L).rxBuffer <;>
    simp [count_eq_counted, setReceiver, classifiedPort]

/-- The taking of the frame before leaves what the classification looks at. -/
theorem exec_rxFrameComplete_classified {L : Link} {s : State} (frame : (s.port L).receiver = .frame)
    (complete : Complete (s.port L).rxBuffer) {c : Classified}
    (judged : classify (s.port L).stationAddress (s.port L).acceptBroadcast (s.port L).rxBuffer = c) :
    exec (.rxFrameComplete L) s =
      .next ((takeHandedOver L s).setPort L (classifiedPort ((takeHandedOver L s).port L) c)) := by
  obtain ⟨_, _, _, _, port⟩ := takeHandedOver_port L s
  rw [exec_rxFrameComplete frame complete, completeFrame_eq, ← judged, port]

/-- Settles O14: the frame handed over before is taken, and the check, the format and the filter decide in turn. -/
theorem completeFramesAreClassified : Obligations.CompleteFramesAreClassified := by
  refine ⟨fun s L frame complete => ?_, fun s L => ⟨handOffPeriod_of_none, fun handed waits => ?_,
    fun handed ends => ?_⟩⟩
  · refine ⟨takeHandedOver L s, inTurn_takings.2 rfl, takeHandedOver_of_none, ?_⟩
    intro p bytes n crc good f tag handed broken mine gives
    have goodIff : good ↔ checkMatches bytes = true := by
      rw [checkMatches_iff (rxProgress_eq_complete.2 complete)]
      simp only [good, crc, check_eq_checkOf]
      rfl
    refine ⟨fun bad => ?_, fun fine breaks => ?_, fun fine format other => ?_, fun fine format passes => ?_⟩
    · exact exec_rxFrameComplete_classified frame complete (classify_of_bad (mt goodIff.2 bad))
    · exact exec_rxFrameComplete_classified frame complete (classify_of_broken (goodIff.1 fine) breaks)
    · exact exec_rxFrameComplete_classified frame complete (classify_of_other (goodIff.1 fine) format other)
    · have accepted := exec_rxFrameComplete_classified frame complete (classify_of_mine (goodIff.1 fine) format passes)
      have handing : handOver (frameOf (s.port L).rxBuffer) = handed := handOver_eq format
      rw [handing] at accepted
      exact accepted
  · rw [handOffPeriod, if_neg (by simpa using handed)]
    exact if_pos waits
  · refine ⟨takeHandedOver L s, inTurn_takings.2 rfl, ?_, takeHandedOver_handedOver⟩
    rw [handOffPeriod, if_neg (by simpa using handed)]
    exact if_neg (Nat.not_lt.2 ends)

end Sys2Proof.Steps
end

section
/-! PROOFS. The bits of a character on a line, as a receiver samples them and as the transmit line shows them (R2,
R3). -/

namespace Sys2Proof.Steps

open Sys2Proof.Machine Sys2Proof.Safety Sys2Proof.Statement

/-! ### Runs of samples -/

theorem heard_append (x : Sampler) (vs ws : List Level) :
    heard x (vs ++ ws) = ((heard (heard x vs).1 ws).1, (heard x vs).2 ++ (heard (heard x vs).1 ws).2) := by
  induction ws using List.reverseRecOn with
  | nil => simp [heard]
  | append_singleton ws v ih =>
    have last (y : Sampler) (us : List Level) : heard y (us ++ [v]) =
        ((sampleLine v (heard y us).1).1, (heard y us).2 ++ (sampleLine v (heard y us).1).2.toList) := by
      simp [heard]
    rw [← List.append_assoc, last, ih, last]
    simp

/-- Two runs of samples, one after the other. -/
theorem heard_append_of_eq {x y z : Sampler} {vs ws : List Level} {es fs : List LineEvent}
    (first : heard x vs = (y, es)) (second : heard y ws = (z, fs)) : heard x (vs ++ ws) = (z, es ++ fs) := by
  rw [heard_append, first, second]

theorem heard_waitStart_high (n : Nat) : heard .waitStart (List.replicate n .high) = (.waitStart, []) := by
  induction n with
  | zero => rfl
  | succ n ih =>
    rw [List.replicate_succ']
    exact heard_append_of_eq ih (by rfl)

theorem sampled_append (bits bits' : List Level) : sampled (bits ++ bits') = sampled bits ++ sampled bits' :=
  List.flatMap_append

/-! ### One character (R2) -/

/-- A data bit as the line shows it. -/
def dataLevel (b : Byte) (i : Nat) : Level := if b.getLsbD i = true then .high else .low

/-- A sample that is not in the middle of a bit is only counted. -/
theorem sampleLine_between {n : Nat} (h : (n + 1) % 16 ≠ 8) (v : Level) (data : Byte) :
    sampleLine v (.character n data) = (.character (n + 1) data, none) := by
  simp only [sampleLine_character, sampleCharacter.eq_def, Config.middleSample, Config.stopSample, Config.samplesPerBit]
  rw [if_neg (by omega), if_neg (by omega), if_neg (by omega)]

/-- A sample in the middle of a data bit takes the bit. -/
theorem sampleLine_middle {i : Nat} (h : i < 8) (v : Level) (data : Byte) :
    sampleLine v (.character (16 * i + 23) data) = (.character (16 * i + 24) (shiftIn v data), none) := by
  simp only [sampleLine_character, sampleCharacter.eq_def, Config.middleSample, Config.stopSample, Config.samplesPerBit]
  rw [if_neg (by omega), if_neg (by omega), if_pos (by omega)]

theorem heard_between {n m : Nat} (h : ∀ k < m, (n + k + 1) % 16 ≠ 8) (v : Level) (data : Byte) :
    heard (.character n data) (List.replicate m v) = (.character (n + m) data, []) := by
  induction m with
  | zero => rfl
  | succ m ih =>
    rw [List.replicate_succ']
    refine heard_append_of_eq (ih fun k hk => h k (Nat.lt_succ_of_lt hk)) ?_
    simp [heard, sampleLine_between (h m (Nat.lt_succ_self m)), Nat.add_assoc]

/-- The sixteen samples of data bit `i` move its level into the character. -/
theorem heard_dataBit {i : Nat} (h : i < 8) (v : Level) (data : Byte) :
    heard (.character (16 * i + 15) data) (List.replicate 16 v) =
      (.character (16 * (i + 1) + 15) (shiftIn v data), []) := by
  have middle : heard (.character (16 * i + 23) data) [v] = (.character (16 * i + 24) (shiftIn v data), []) := by
    simp [heard, sampleLine_middle h]
  have before := heard_between (n := 16 * i + 15) (m := 8) (by omega) v data
  have behind := heard_between (n := 16 * i + 24) (m := 7) (by omega) v (shiftIn v data)
  have samples : List.replicate 16 v = List.replicate 8 v ++ ([v] ++ List.replicate 7 v) := rfl
  rw [samples, show 16 * (i + 1) + 15 = 16 * i + 24 + 7 by omega]
  exact heard_append_of_eq before (heard_append_of_eq middle behind)

/-- The data bits up to bit `n`. -/
theorem heard_dataBits (b : Byte) {n : Nat} (h : n ≤ 8) :
    heard (.character 15 0) (sampled ((List.range n).map (dataLevel b))) =
      (.character (16 * n + 15) ((List.range n).foldl (fun data i => shiftIn (dataLevel b i) data) 0), []) := by
  induction n with
  | zero => rfl
  | succ n ih =>
    rw [List.range_succ, List.map_append, sampled_append, List.foldl_append]
    refine heard_append_of_eq (ih (Nat.le_of_succ_le h)) ?_
    rw [sampled, List.map_singleton, List.flatMap_singleton]
    exact heard_dataBit h _ _

/-- Eight bits moved in, least significant first, are the byte. -/
theorem shiftIn_dataLevels (b : Byte) :
    (List.range 8).foldl (fun data i => shiftIn (dataLevel b i) data) 0 = b := by
  have bytes : ∀ n : Fin 256, (List.range 8).foldl (fun data i => shiftIn (dataLevel (BitVec.ofNat 8 n.val) i) data) 0 =
      BitVec.ofNat 8 n.val := by decide +kernel
  simpa using bytes ⟨b.toNat, b.isLt⟩

/-- The start bit and the data bits of a character. -/
def nineBits (b : Byte) : List Level := .low :: (List.range 8).map (dataLevel b)

theorem heard_nineBits (b : Byte) : heard .waitStart (sampled (nineBits b)) = (.character 143 b, []) := by
  have start : heard .waitStart (List.replicate 16 .low) = (.character 15 0, []) := rfl
  have data := heard_dataBits b le_rfl
  rw [shiftIn_dataLevels] at data
  exact heard_append_of_eq start data

/-- The stop bit is taken in its middle. -/
theorem heard_stopBit (v : Level) (data : Byte) :
    heard (.character 143 data) (List.replicate 9 v) =
      (match v with
      | .high => (.waitStart, [.character data])
      | .low => (.waitMark, [.error])) := by
  have middle : heard (.character 151 data) [v] = (match v with
      | .high => (.waitStart, [.character data])
      | .low => (.waitMark, [.error])) := by
    cases v <;> simp [heard, sampleCharacter.eq_def]
  have samples : List.replicate 9 v = List.replicate 8 v ++ [v] := rfl
  rw [samples, heard_append, heard_between (by omega), middle]
  rfl

theorem heard_waitMark_low (n : Nat) : heard .waitMark (List.replicate n .low) = (.waitMark, []) := by
  induction n with
  | zero => rfl
  | succ n ih =>
    rw [List.replicate_succ']
    exact heard_append_of_eq ih (by rfl)

theorem sampled_tenBits (b : Byte) (stop : Level) :
    sampled (tenBits b stop) = sampled (nineBits b) ++ (List.replicate 9 stop ++ List.replicate 7 stop) :=
  sampled_append ..

theorem heard_character (b : Byte) : heard .waitStart (sampled (tenBits b .high)) = (.waitStart, [.character b]) := by
  rw [sampled_tenBits]
  exact heard_append_of_eq (heard_nineBits b)
    (heard_append_of_eq (heard_stopBit .high b) (heard_waitStart_high 7))

theorem heard_characterError (b : Byte) : heard .waitStart (sampled (tenBits b .low)) = (.waitMark, [.error]) := by
  rw [sampled_tenBits]
  exact heard_append_of_eq (heard_nineBits b)
    (heard_append_of_eq (heard_stopBit .low b) (heard_waitMark_low 7))

theorem heard_characters (bytes : List Byte) :
    heard .waitStart (sampled (bytes.flatMap fun b => tenBits b .high)) = (.waitStart, bytes.map .character) := by
  induction bytes with
  | nil => rfl
  | cons b bytes ih =>
    rw [List.flatMap_cons, sampled_append]
    exact heard_append_of_eq (heard_character b) ih

/-- A line back at mark at the middle of the start bit has begun no character. -/
theorem heard_falseStart {low high : Nat} (some : 1 ≤ low) (few : low ≤ 8) (middle : 9 ≤ low + high) :
    heard .waitStart (List.replicate low .low ++ List.replicate high .high) = (.waitStart, []) := by
  have marks : List.replicate high Level.high =
      List.replicate (9 - low) .high ++ List.replicate (high - (9 - low)) .high := by
    rw [List.replicate_append_replicate, Nat.add_sub_cancel' (by omega)]
  have ignored : heard .waitStart (List.replicate low .low ++ List.replicate (9 - low) .high) = (.waitStart, []) := by
    interval_cases low <;> rfl
  rw [marks, ← List.append_assoc]
  exact heard_append_of_eq ignored (heard_waitStart_high _)

/-! ### The transmit line (R2, R15) -/

theorem getElem?_flatMap_of_length {α β : Type} {f : α → List β} {k : Nat} (length : ∀ a, (f a).length = k)
    (l : List α) (i : Nat) {j : Nat} (hj : j < k) : (l.flatMap f)[k * i + j]? = (l[i]?).bind fun a => (f a)[j]? := by
  induction l generalizing i with
  | nil => rfl
  | cons a l ih =>
    rw [List.flatMap_cons]
    cases i with
    | zero => rw [Nat.mul_zero, Nat.zero_add, List.getElem?_append_left (by rwa [length])]; rfl
    | succ i =>
      rw [List.getElem?_append_right (by rw [length, Nat.mul_succ]; omega), length,
        show k * (i + 1) + j - k = k * i + j by rw [Nat.mul_succ]; omega, ih]
      rfl

theorem txd_of_not_active {s : State} {L : Link} (h : (s.port L).transmitter ≠ .active) : s.txd L = .high := by
  unfold State.txd
  split
  · contradiction
  all_goals rfl

theorem txd_of_active {s : State} {L : Link} {i j : Nat} {b : Byte} (active : (s.port L).transmitter = .active)
    (byte : (s.port L).txBuffer[i]? = some b) (hj : j < 10)
    (at_ : (s.port L).txPeriods / (16 * 2 ^ (7 - (s.port L).lineRate)) = 10 * i + j) :
    (tenBits b .high)[j]? = some (s.txd L) := by
  have length (c : Byte) : (characterLevels c).length = 10 := by simp [characterLevels]
  have shown : (lineLevels (s.port L).txBuffer)[10 * i + j]? = (tenBits b .high)[j]? := by
    rw [lineLevels, getElem?_flatMap_of_length length _ _ hj, byte]
    rfl
  have bit : j < (tenBits b .high).length := by simpa [tenBits] using hj
  have line : s.txd L = (lineLevels (s.port L).txBuffer).getD
      ((s.port L).txPeriods / (16 * 2 ^ (7 - (s.port L).lineRate))) .high := by
    simp only [State.txd, active]
    rfl
  rw [line, at_, List.getD_eq_getElem?_getD, shown, List.getElem?_eq_getElem bit]
  rfl

end Sys2Proof.Steps
end

section
/-! PROOFS. A frame built by a transmitter, as the station it is addressed to receives it (R4 to R6, R8, R10 to R13,
R15). -/

namespace Sys2Proof.Steps

open Sys2Proof.Machine Sys2Proof.Safety Sys2Proof.Statement

/-! ### The bytes of a frame, read back (R4, R6) -/

section
variable {f : Frame} (small : f.payload.length ≤ 64)
include small

theorem declaredLength_bytes : declaredLength f.bytes = f.payload.length := by
  have byte : declaredLength f.bytes = (lowByte f.payload.length).toNat := rfl
  rw [byte, lowByte, BitVec.toNat_ofNat, Nat.mod_eq_of_lt (by omega)]

omit small in
theorem length_bytes (f : Frame) : f.bytes.length = 9 + f.payload.length := by
  simp [Frame.bytes, Frame.body, checkBytes]
  omega

theorem complete_bytes : Complete f.bytes := by
  have declares : declared f.bytes = f.payload.length := declaredLength_bytes small
  rw [Complete, declares, length_bytes]
  omega

theorem frameOf_bytes : frameOf f.bytes = f := by
  have payload : (f.bytes.drop 7).take (declaredLength f.bytes) = f.payload := by
    rw [declaredLength_bytes small]
    exact List.take_left ..
  rw [frameOf, payload]
  rfl

theorem checkMatches_bytes : checkMatches f.bytes = true := by
  have body : f.body.length = 6 + f.payload.length := by simp [Frame.body]; omega
  have covered : (f.bytes.drop 1).take (6 + f.payload.length) = f.body := body ▸ List.take_left ..
  have after : f.bytes.drop (7 + f.payload.length) = checkBytes (checkOf f.body) := by
    rw [show 7 + f.payload.length = f.body.length + 1 by omega]
    exact List.drop_left ..
  rw [checkMatches, declaredLength_bytes small, covered, after]
  exact beq_self_eq_true _

/-- A frame whose format is right and that passes the filter is accepted with its fields. -/
theorem classify_bytes {own : Nat} {accept : Bool} (format : ¬ breaksFormat own f = true)
    (mine : passesFilter own accept f = true) : classify own accept f.bytes = .accepted (handOver f) := by
  have fields := frameOf_bytes small
  rw [classify_of_mine (checkMatches_bytes small) (by rwa [fields]) (by rwa [fields]), fields]

/-- So the station hands over its fields when the last byte has been received. -/
theorem exec_rxFrameComplete_bytes {own : Nat} {accept : Bool} (format : ¬ breaksFormat own f = true)
    (mine : passesFilter own accept f = true) {s u : State} {L : Link} (frame : (s.port L).receiver = .frame)
    (buffer : (s.port L).rxBuffer = f.bytes) (station : (s.port L).stationAddress = own)
    (broadcasts : (s.port L).acceptBroadcast = accept) (taken : inTurn (takings L) s u) :
    exec (.rxFrameComplete L) s = .next { u with ports := u.ports.put L { u.port L with
      receiver := .hunt, rxBuffer := [], handedOver := some (handOver f), handedPeriods := 0 } } := by
  rw [inTurn_takings.1 taken]
  refine exec_rxFrameComplete_classified frame (buffer ▸ complete_bytes small) (c := .accepted (handOver f)) ?_
  rw [station, broadcasts, buffer, classify_bytes small format mine]

end

/-! ### The frames that are built (R15) -/

theorem lowByte_toNat_of_lt {n : Nat} (h : n < 256) : (lowByte n).toNat = n := by
  rw [lowByte, BitVec.toNat_ofNat, Nat.mod_eq_of_lt h]

theorem tagByte_toNat (t : Tag) : (tagByte t).toNat = t.val := by
  have := t.isLt
  rw [tagByte, BitVec.toNat_ofNat, Nat.mod_eq_of_lt (by omega)]

theorem fragmentByteOf_toNat (n : FragNo) (final : Bool) :
    (fragmentByteOf n.val final).toNat = n.val + if final = true then 128 else 0 := by
  have := n.isLt
  rw [fragmentByteOf, BitVec.toNat_ofNat]
  cases final <;> simp <;> omega

section
variable {sender own : Nat} (low : 1 ≤ sender) (high : sender ≤ 254) (other : sender ≠ own)
include low high other

/-- The fragments of a message break no format condition at another station. -/
theorem dataFrame_format {peer : Byte} (addressed : peer.toNat ≠ 0) (tag : Tag) {n : FragNo} {final : Bool}
    {payload : List Byte} (whole : final = false → payload.length = 64) (empty : payload = [] → n = 0) :
    ¬ breaksFormat own (dataFrame sender peer tag n.val final payload) = true := by
  have number := fragmentByteOf_toNat n final
  have hn := n.isLt
  have ht := tag.isLt
  have zero (h : payload = []) : n.val = 0 := congrArg Fin.val (empty h)
  rw [breaksFormat_iff]
  simp only [dataFrame, tagByte_toNat, lowByte_toNat_of_lt (show sender < 256 by omega), number]
  cases final with
  | false => simp [whole rfl]; omega
  | true =>
    by_cases none : payload = []
    · simp [none, zero none]; omega
    · simp [none]; omega

/-- The answers to a fragment break none either. -/
theorem controlFrame_format {r : Request} (addressed : r.destination.toNat ≠ 0) (unicast : r.destination.toNat ≠ 255) :
    ¬ breaksFormat own (controlFrame sender r) = true := by
  have ht := r.tag.isLt
  rw [breaksFormat_iff]
  simp only [controlFrame, tagByte_toNat, lowByte_toNat_of_lt (show sender < 256 by omega)]
  obtain ⟨kind, destination, tag⟩ := r
  match kind with
  | .ack => simp_all; omega
  | .refuse .noContext => simp_all [reasonByte]; omega
  | .refuse .noBlock => simp_all [reasonByte]; omega

end

theorem handOver_dataFrame (sender : Nat) (peer : Byte) (tag : Tag) (n : FragNo) (final : Bool) (payload : List Byte) :
    handOver (dataFrame sender peer tag n.val final payload) =
      .data ⟨lowByte sender, peer == 255, tag, n, final, payload⟩ := by
  have number := fragmentByteOf_toNat n final
  have hn := n.isLt
  have fragment : fragmentNumber (fragmentByteOf n.val final) = n := by
    apply Fin.ext
    rw [fragmentNumber, number]
    show (n.val + if final = true then 128 else 0) % 16 = n.val
    split <;> omega
  have flag : finalFlag (fragmentByteOf n.val final) = final := by
    rw [Bool.eq_iff_iff, finalFlag_iff, number]
    cases final <;> simp
    omega
  have tags : Fin.ofNat 64 (tagByte tag).toNat = tag := by rw [tagByte_toNat]; exact Fin.ofNat_val_eq_self tag
  have kind : (handOver (dataFrame sender peer tag n.val final payload)) = .data ⟨lowByte sender, peer == 255,
      Fin.ofNat 64 (tagByte tag).toNat, fragmentNumber (fragmentByteOf n.val final),
      finalFlag (fragmentByteOf n.val final), payload⟩ := rfl
  rw [kind, fragment, flag, tags]

theorem handOver_controlFrame (sender : Nat) (r : Request) :
    handOver (controlFrame sender r) = match r.kind with
      | .ack => .ack (lowByte sender) r.tag
      | .refuse reason => .refuse (lowByte sender) r.tag reason := by
  have tags : Fin.ofNat 64 (tagByte r.tag).toNat = r.tag := by rw [tagByte_toNat]; exact Fin.ofNat_val_eq_self r.tag
  obtain ⟨kind, destination, tag⟩ := r
  match kind with
  | .ack => exact congrArg (HandedFrame.ack _) tags
  | .refuse .noContext => exact congrArg (HandedFrame.refuse _ · _) tags
  | .refuse .noBlock => exact congrArg (HandedFrame.refuse _ · _) tags

/-- A frame of the bytes given is complete, and the station accepts it as what it hands over. -/
def Arrives (own : Nat) (broadcasts : Bool) (bytes : List Byte) (h : HandedFrame) : Prop :=
  Complete bytes ∧ bytes.length = 9 + declared bytes ∧
    ∀ (s u : State) (L : Link), (s.port L).receiver = .frame → (s.port L).rxBuffer = bytes →
      (s.port L).stationAddress = own → (s.port L).acceptBroadcast = broadcasts → inTurn (takings L) s u →
      exec (.rxFrameComplete L) s = .next { u with ports := u.ports.put L { u.port L with
        receiver := .hunt, rxBuffer := [], handedOver := some h, handedPeriods := 0 } }

theorem arrives_of_accepted {own : Nat} {accept : Bool} {f : Frame} (small : f.payload.length ≤ 64)
    (format : ¬ breaksFormat own f = true) (mine : passesFilter own accept f = true) :
    Arrives own accept f.bytes (handOver f) :=
  ⟨complete_bytes small, (length_bytes f).trans (congrArg (9 + ·) (declaredLength_bytes small).symm),
    fun _ _ _ => exec_rxFrameComplete_bytes small format mine⟩

/-- Settles O16: the frames built, the samples of their characters, and the transmit line. -/
theorem builtFramesAreAcceptedAsSent : Obligations.BuiltFramesAreAcceptedAsSent := by
  refine ⟨fun sender own accept low high ownLow ownHigh other => ?_, heard_characters, heard_characterError,
    fun _ _ => heard_falseStart, fun _ _ => txd_of_not_active, fun _ _ _ _ _ => txd_of_active⟩
  have station : (lowByte own).toNat = own := lowByte_toNat_of_lt (by omega)
  have answer (tag : Tag) (k : RequestKind) :
      Arrives own accept (controlFrame sender ⟨k, lowByte own, tag⟩).bytes
        (handOver (controlFrame sender ⟨k, lowByte own, tag⟩)) :=
    arrives_of_accepted (by cases k <;> simp [controlFrame])
      (controlFrame_format low high other (by rw [station]; omega) (by rw [station]; omega))
      (by simp [passesFilter, controlFrame, station])
  simp only [frame_bytes_eq_framed, handOver_controlFrame] at answer
  refine ⟨fun n final tag payload whole small empty => ?_, fun tag =>
    ⟨answer tag .ack, answer tag (.refuse .noContext), answer tag (.refuse .noBlock)⟩⟩
  have fragment {broadcasts : Bool} (peer : Byte) (addressed : peer.toNat ≠ 0)
      (mine : passesFilter own broadcasts (dataFrame sender peer tag n.val final payload) = true) :
      Arrives own broadcasts (dataFrame sender peer tag n.val final payload).bytes
        (handOver (dataFrame sender peer tag n.val final payload)) := by
    have short : payload.length ≤ 64 := by
      cases final with
      | false => exact (whole rfl).le
      | true => exact small rfl
    exact arrives_of_accepted short (dataFrame_format low high other addressed tag whole empty) mine
  simp only [frame_bytes_eq_framed, handOver_dataFrame] at fragment
  have unicast : (lowByte own == 255) = false := by
    rw [beq_eq_false_iff_ne]
    intro all
    have := station.symm.trans (congrArg BitVec.toNat all)
    simp at this
    omega
  have alone := fragment (broadcasts := accept) (lowByte own) (by rw [station]; omega)
    (by simp [passesFilter, dataFrame, station])
  rw [unicast] at alone
  exact ⟨alone, fragment 255 (by decide) (by simp [passesFilter, dataFrame])⟩

end Sys2Proof.Steps
end

section
/-! PROOFS. The reset state, by address and by field (sections 11.4 and 11.5). -/

namespace Sys2Proof.Steps

open Sys2Proof.Machine Sys2Proof.Safety Sys2Proof.Statement

/-! ### The register window of the reset state -/

/-- A reset state with the input pins given, in which link `L` is selected. -/
def resetPage (low : Bool) (i : Inputs) (L : Link) (s : State) : State :=
  { deviceReset low s with inputs := i, host := { (deviceReset low s).host with linkSelect := L } }

/-- What the window shows of a reset state does not depend on the state before, on the pins or on the RESET line. -/
theorem windowRead_resetPage_eq (low : Bool) (i : Inputs) (L : Link) (s : State) (a : BitVec 7) :
    windowRead (resetPage low i L s) a = windowRead (resetPage false State.reset.inputs L State.reset) a := rfl

theorem windowRead_resetPage_of_reset : ∀ (L : Link) (a : Fin 128), L = 0 ∨ 0x40 ≤ a.val →
    windowRead (resetPage false State.reset.inputs L State.reset) (BitVec.ofNat 7 a.val) = resetValue a.val := by
  decide +kernel

theorem windowRead_resetPage (low : Bool) (i : Inputs) {L : Link} (s : State) {a : BitVec 7}
    (h : L = 0 ∨ 0x40 ≤ a.toNat) : windowRead (resetPage low i L s) a = resetValue a.toNat := by
  have := windowRead_resetPage_of_reset L ⟨a.toNat, a.isLt⟩ h
  rw [windowRead_resetPage_eq]
  simpa using this

/-! ### The fields of the reset state -/

theorem deviceReset_inResetState (low : Bool) (s : State) {i : Inputs}
    (inputs : i = { s.inputs with
      voided := if low then
          decide (s.inputs.pins.cs = .low ∧ (s.inputs.pins.rd = .low ∨ s.inputs.pins.wr = .low))
        else s.inputs.voided }) :
    InResetState low s { deviceReset low s with inputs := i } where
  pending := rfl
  window a := windowRead_resetPage low i (L := 0) s (.inl rfl)
  pages L a ha := windowRead_resetPage low i s (.inr ha)
  device := ⟨rfl, rfl, rfl, rfl⟩
  latches L := Table.look_fill ..
  ports L := by
    have port : State.port { deviceReset low s with inputs := i } L = .reset := deviceReset_port low s L
    rw [port]
    exact ⟨rfl, rfl, rfl, rfl, rfl, rfl, rfl, rfl, rfl, rfl, rfl⟩
  lines L := by
    have port : State.port { deviceReset low s with inputs := i } L = .reset := deviceReset_port low s L
    exact txd_of_not_active (by rw [port]; exact nofun)
  inputs := inputs
  time := ⟨rfl, rfl, rfl, rfl, rfl⟩
  pool := ⟨rfl, fun b => Table.look_fill .., rfl⟩
  free := ⟨rfl, show State.reset.freeDescriptors = 96 by decide +kernel⟩
  descriptors := deviceReset_desc low s
  ready := deviceReset_ready low s
  contexts := deviceReset_context low s
  history := deviceReset_history low s
  scheduler L := by
    have sch : State.sch { deviceReset low s with inputs := i } L = .reset := deviceReset_sch low s L
    rw [sch]
    exact ⟨rfl, rfl, rfl, rfl⟩
  compose := ⟨rfl, rfl, rfl, rfl⟩
  notices := ⟨rfl, rfl⟩
  service := ⟨rfl, rfl, rfl, rfl, rfl⟩

/-- The access in progress that a falling RESET line makes void. -/
theorem accesses_iff (p : Pins) :
    (p.reads || p.writes) = decide (p.cs = .low ∧ (p.rd = .low ∨ p.wr = .low)) := by
  rw [Pins.reads, Pins.writes]
  cases p.cs <;> cases p.rd <;> cases p.wr <;> rfl

/-- Settles O4: both are the reset of every part; the line alone makes an access void. -/
theorem deviceResetReturnsEveryValue : Obligations.DeviceResetReturnsEveryValue := by
  refine ⟨fun s => ⟨_, rfl, deviceReset_inResetState true s ?_⟩, fun s operational =>
    ⟨{ deviceReset false s with inputs := s.inputs }, ?_, deviceReset_inResetState false s rfl⟩⟩
  · show Inputs.mk _ _ _ = _
    exact congrArg (Inputs.mk _ _) (accesses_iff s.inputs.pins)
  · show Host.Outcome.next (commandDeviceReset s) = _
    simp only [commandDeviceReset, hostWrite, operational.1, operational.2]
    rfl

end Sys2Proof.Steps
end

section
/-! PROOFS. Characters, damage and samples in each state of a receiver (R2, R3, R7 to R9). -/

namespace Sys2Proof.Steps

open Sys2Proof.Machine Sys2Proof.Safety Sys2Proof.Statement

/-! ### Characters and damage (R7 to R9) -/

theorem measures_of_unfinished {p : LinkPort} (frame : p.receiver = .frame) (h : Unfinished p.rxBuffer) : Measures p :=
  .inr ⟨frame, rxProgress_eq_unfinished.2 h⟩

theorem measures_iff {p : LinkPort} :
    Measures p ↔ p.receiver = .settling ∨ p.receiver = .frame ∧ Unfinished p.rxBuffer :=
  or_congr_right (and_congr_right fun _ => rxProgress_eq_unfinished)

theorem measuring_iff {L : Link} {s : State} : s.measuring L = true ↔ Measures (s.port L) := by
  simp [State.measuring, receiving_iff, Measures]

/-- While a receiver measures an idle gap, no end of a frame is due. -/
theorem concludeFrame_of_measures {L : Link} {s : State} (h : Measures (s.port L)) : concludeFrame L s = s := by
  obtain settling | ⟨-, unfinished⟩ := h
  · exact concludeFrame_of_not (receiving_of_not_frame (by rw [settling]; exact nofun) _)
      (receiving_of_not_frame (by rw [settling]; exact nofun) _)
  · exact concludeFrame_of_not (receiving_eq_false.2 (.inr (by rw [unfinished]; exact nofun)))
      (receiving_eq_false.2 (.inr (by rw [unfinished]; exact nofun)))

theorem concludeFrame_of_not_frame {L : Link} {s : State} (h : (s.port L).receiver ≠ .frame) : concludeFrame L s = s :=
  concludeFrame_of_not (receiving_of_not_frame h _) (receiving_of_not_frame h _)

/-- A frame whose end was due is finished once. -/
theorem concludeFrame_concludeFrame (L : Link) (s : State) :
    concludeFrame L (concludeFrame L s) = concludeFrame L s := by
  by_cases frame : ((concludeFrame L s).port L).receiver = .frame
  · exact concludeFrame_of_measures (.inr ⟨frame, concludeFrame_unfinished frame⟩)
  · exact concludeFrame_of_not_frame frame

theorem discardToSettling_eq (L : Link) (s : State) : discardToSettling L s =
    s.setPort L (counted .formatErrors { s.port L with receiver := .settling, rxBuffer := [], idleLeft := 320 }) := by
  simp [discardToSettling, count_eq_counted]

theorem discardToHunt_eq (L : Link) (s : State) : discardToHunt L s =
    s.setPort L (counted .formatErrors { s.port L with receiver := .hunt, rxBuffer := [] }) := by
  simp [discardToHunt, count_eq_counted]

section
variable {L : Link} {s : State}

theorem receiveCharacter_of_measures (h : Measures (s.port L)) (b : Byte) :
    receiveCharacter L b s = hearCharacter L b s := by rw [receiveCharacter, concludeFrame_of_measures h]

theorem receiveCharacter_of_not_frame (h : (s.port L).receiver ≠ .frame) (b : Byte) :
    receiveCharacter L b s = hearCharacter L b s := by rw [receiveCharacter, concludeFrame_of_not_frame h]

theorem receiveError_of_measures (h : Measures (s.port L)) : receiveError L s = hearError L s := by
  rw [receiveError, concludeFrame_of_measures h]

theorem hearCharacter_frame (h : (s.port L).receiver = .frame) (b : Byte) : hearCharacter L b s =
    s.setPort L { s.port L with rxBuffer := (s.port L).rxBuffer ++ [b], idleLeft := 327 } := by
  simp only [hearCharacter, h, setReceiver_eq, restartGap_eq, State.setPort_setPort, State.setPort_port_self]

theorem hearCharacter_settling (h : (s.port L).receiver = .settling) (b : Byte) :
    hearCharacter L b s = s.setPort L { s.port L with idleLeft := 327 } := by
  simp only [hearCharacter, h, restartGap_eq]

theorem hearCharacter_disabled (h : (s.port L).receiver = .disabled) (b : Byte) : hearCharacter L b s = s := by
  simp only [hearCharacter, h]

theorem hearCharacter_hunt (h : (s.port L).receiver = .hunt) (b : Byte) : hearCharacter L b s =
    if b = 0xA6 then s.setPort L { s.port L with receiver := .frame, rxBuffer := [0xA6], idleLeft := 327 } else s := by
  simp only [hearCharacter, h]
  refine if_ctx_congr Iff.rfl (fun start => ?_) fun _ => rfl
  rw [start]
  simp

theorem hearError_frame (h : (s.port L).receiver = .frame) : hearError L s = discardToSettling L s := by
  simp only [hearError, h]

theorem hearError_settling (h : (s.port L).receiver = .settling) :
    hearError L s = s.setPort L { s.port L with idleLeft := 320 } := by
  simp only [hearError, h, restartGap_eq]

theorem truncateFrame_of_unfinished (frame : (s.port L).receiver = .frame) (h : Unfinished (s.port L).rxBuffer) :
    truncateFrame L s = discardToHunt L s :=
  if_pos (receiving_iff.2 ⟨frame, rxProgress_eq_unfinished.2 h⟩)

/-! ### Samples (R2, R3) -/

theorem unconfirmed_iff {x : Sampler} : x.unconfirmed = true ↔
    x = .waitMark ∨ x = .waitStart ∨ ∃ n data, x = .character n data ∧ n < 8 := by
  cases x with
  | waitMark | waitStart => simp [Sampler.unconfirmed]
  | character n data => simp [Sampler.unconfirmed]

theorem receiverPeriod_of_sample (h : 2 ^ (7 - (s.port L).lineRate) ≤ (s.port L).sampleCount + 1) :
    receiverPeriod L s = sampleReceiver L (s.inputs.pins.rxd.look L) s := if_neg (Nat.not_lt.2 h)

/-- The port after a sample, before what the sample has ended in. -/
def sampledPort (v : Level) (p : LinkPort) : LinkPort :=
  { p with sampleCount := 0, sampler := (sampleLine v p.sampler).1 }

/-- A mark of an idle gap that a receiver measures is counted. -/
theorem sampleReceiver_mark (h : Measures (s.port L)) (none : (sampleLine .high (s.port L).sampler).2 = none)
    (idle : (sampleLine .high (s.port L).sampler).1.unconfirmed = true) :
    sampleReceiver L .high s = concludeFrame L (countIdle L (s.setPort L (sampledPort .high (s.port L)))) := by
  have measuring : (s.setPort L (sampledPort .high (s.port L))).measuring L = true :=
    measuring_iff.2 (by rw [State.setPort_port_self]; exact h)
  refine congrArg (concludeFrame L) (if_pos ?_)
  simp only [none, idle, Option.isNone_none, beq_self_eq_true, Bool.and_self, Bool.true_and]
  exact measuring

/-- Any other sample is received as what it ends in. -/
theorem sampleReceiver_other {v : Level} (h : ¬ ((sampleLine v (s.port L).sampler).2 = none ∧ v = .high ∧
      (sampleLine v (s.port L).sampler).1.unconfirmed = true ∧ Measures (s.port L))) :
    sampleReceiver L v s = concludeFrame L
      (takeLineEvent L (s.setPort L (sampledPort v (s.port L))) (sampleLine v (s.port L).sampler).2) := by
  have measuring : (s.setPort L (sampledPort v (s.port L))).measuring L = true ↔ Measures (s.port L) :=
    measuring_iff.trans (by rw [State.setPort_port_self]; exact Iff.rfl)
  refine congrArg (concludeFrame L) (if_neg fun k => h ?_)
  simp only [Bool.and_eq_true, Option.isNone_iff_eq_none, beq_iff_eq] at k
  exact ⟨k.1.1.1, k.1.1.2, k.1.2, measuring.1 k.2⟩

theorem countIdle_of_more (more : 1 < (s.port L).idleLeft) :
    countIdle L s = s.setPort L { s.port L with idleLeft := (s.port L).idleLeft - 1 } := if_neg (Nat.not_le.2 more)

theorem countIdle_of_settling (settling : (s.port L).receiver = .settling) (last : (s.port L).idleLeft ≤ 1) :
    countIdle L s = s.setPort L { s.port L with receiver := .hunt, idleLeft := 0 } := by
  simp [countIdle, endSettling, truncateFrame, State.receiving, last, settling]

theorem countIdle_of_unfinished (frame : (s.port L).receiver = .frame) (h : Unfinished (s.port L).rxBuffer)
    (last : (s.port L).idleLeft ≤ 1) : countIdle L s =
      s.setPort L (counted .formatErrors { s.port L with receiver := .hunt, rxBuffer := [], idleLeft := 0 }) := by
  simp [countIdle, endSettling, truncateFrame, State.receiving, last, frame, rxProgress_eq_unfinished.2 h,
    discardToHunt_eq]

end

end Sys2Proof.Steps
end

section
/-! PROOFS. A character on the line of a receiver that measures an idle gap, and the mark after it (R2, R7, R9). -/

namespace Sys2Proof.Steps

open Sys2Proof.Machine Sys2Proof.Safety Sys2Proof.Statement

/-! ### Reference periods at a level of the line -/

theorem hearing_append (L : Link) (vs ws : List Level) (s : State) :
    hearing L (vs ++ ws) s = hearing L ws (hearing L vs s) := List.foldl_append

/-- The state with the level given at the line of link `L`. -/
def withLine (L : Link) (v : Level) (s : State) : State :=
  { s with inputs := { s.inputs with pins := { s.inputs.pins with rxd := s.inputs.pins.rxd.put L v } } }

/-- One reference period with the level given at the line of link `L`. -/
def listen (L : Link) (v : Level) (s : State) : State := receiverPeriod L (withLine L v s)

theorem hearing_concat (L : Link) (vs : List Level) (v : Level) (s : State) :
    hearing L (vs ++ [v]) s = listen L v (hearing L vs s) := by
  rw [hearing_append]
  rfl

theorem listen_wait {L : Link} {s : State} (h : (s.port L).sampleCount + 1 < 2 ^ (7 - (s.port L).lineRate))
    (v : Level) : (listen L v s).port L = { s.port L with sampleCount := (s.port L).sampleCount + 1 } := by
  rw [listen, receiverPeriod, if_pos (by exact h), State.setPort_port_self]
  rfl

theorem listen_sample {L : Link} {s : State} (h : 2 ^ (7 - (s.port L).lineRate) ≤ (s.port L).sampleCount + 1)
    (v : Level) : ∃ t : State, t.port L = s.port L ∧ listen L v s = sampleReceiver L v t := by
  refine ⟨withLine L v s, rfl, ?_⟩
  rw [listen, receiverPeriod_of_sample (by exact h), withLine, Table.look_put_self]

/-- A port that has just sampled its line, with the sampler given. -/
def sampling (p : LinkPort) (x : Sampler) : LinkPort := { p with sampleCount := 0, sampler := x }

theorem hearing_wait {L : Link} {s : State} {p : LinkPort} {x : Sampler} (at_ : s.port L = sampling p x) (v : Level)
    {n : Nat} (h : n < 2 ^ (7 - p.lineRate)) :
    (hearing L (List.replicate n v) s).port L = { sampling p x with sampleCount := n } := by
  induction n with
  | zero => exact at_
  | succ n ih =>
    have waited := ih (Nat.lt_of_succ_lt h)
    rw [List.replicate_succ', hearing_concat, listen_wait (by rw [waited]; exact h), waited]

/-- The reference periods of one sample of the line. -/
def held1 (p : LinkPort) (v : Level) : List Level := List.replicate (2 ^ (7 - p.lineRate)) v

theorem hearing_sample {L : Link} {s : State} {p : LinkPort} {x : Sampler} (at_ : s.port L = sampling p x) (v : Level) :
    ∃ t : State, t.port L = { sampling p x with sampleCount := 2 ^ (7 - p.lineRate) - 1 } ∧
      hearing L (held1 p v) s = sampleReceiver L v t := by
  obtain ⟨k, hk⟩ : ∃ k, 2 ^ (7 - p.lineRate) = k + 1 := Nat.exists_eq_succ_of_ne_zero (Nat.two_pow_pos _).ne'
  have waited := hearing_wait at_ v (n := k) (by omega)
  obtain ⟨t, port, sampled⟩ := listen_sample (L := L) (s := hearing L (List.replicate k v) s)
    (by rw [waited]; exact hk.le) v
  refine ⟨t, by rw [port, waited, hk]; rfl, ?_⟩
  rw [held1, hk, List.replicate_succ', hearing_concat, sampled]

/-! ### A run of samples that are neither received nor idle -/

/-- The samples end in nothing, and none of them counts towards an idle gap. -/
def silent : Sampler → List Level → Bool
  | _, [] => true
  | x, v :: vs =>
    (sampleLine v x).2.isNone && !(v == .high && (sampleLine v x).1.unconfirmed) && silent (sampleLine v x).1 vs

theorem silent_append (x : Sampler) (vs ws : List Level) :
    silent x (vs ++ ws) = (silent x vs && silent (heard x vs).1 ws) := by
  induction vs generalizing x with
  | nil => rfl
  | cons v vs ih =>
    have next : (heard x (v :: vs)).1 = (heard (sampleLine v x).1 vs).1 := by
      rw [show v :: vs = [v] ++ vs from rfl, heard_append]
      rfl
    simp only [List.cons_append, silent, ih, next, Bool.and_assoc]

theorem silent_between {n m : Nat} (middle : 8 ≤ n) (h : ∀ k < m, (n + k + 1) % 16 ≠ 8) (v : Level) (data : Byte) :
    silent (.character n data) (List.replicate m v) = true := by
  induction m generalizing n with
  | zero => rfl
  | succ m ih =>
    have first := sampleLine_between (h 0 (Nat.succ_pos m)) v data
    have later := ih (n := n + 1) (by omega) fun k hk => by have := h (k + 1) (by omega); omega
    rw [List.replicate_succ, silent, first, later]
    simp only [Sampler.unconfirmed, Config.middleSample]
    simp
    omega

theorem silent_dataBit {i : Nat} (h : i < 8) (v : Level) (data : Byte) :
    silent (.character (16 * i + 15) data) (List.replicate 16 v) = true := by
  have middle : silent (.character (16 * i + 23) data) [v] = true := by
    simp [silent, sampleLine_middle h, Sampler.unconfirmed, show ¬ 16 * i + 24 < 8 by omega]
  have samples : List.replicate 16 v = List.replicate 8 v ++ ([v] ++ List.replicate 7 v) := rfl
  have taken : (heard (.character (16 * i + 23) data) [v]).1 = .character (16 * i + 24) (shiftIn v data) := by
    simp [heard, sampleLine_middle h]
  rw [samples, silent_append, heard_between (by omega), silent_append, taken,
    silent_between (by omega) (by omega), middle, silent_between (by omega) (by omega)]
  rfl

theorem silent_dataBits (b : Byte) {n : Nat} (h : n ≤ 8) :
    silent (.character 15 0) (sampled ((List.range n).map (dataLevel b))) = true := by
  induction n with
  | zero => rfl
  | succ n ih =>
    rw [List.range_succ, List.map_append, sampled_append, silent_append, ih (Nat.le_of_succ_le h),
      heard_dataBits b (Nat.le_of_succ_le h), sampled, List.map_singleton, List.flatMap_singleton]
    exact silent_dataBit h _ _

/-- The samples of a character up to the one before the middle of its stop bit. -/
def beforeStop (b : Byte) : List Level := sampled (nineBits b) ++ List.replicate 8 .high

theorem silent_beforeStop (b : Byte) : silent .waitStart (beforeStop b) = true := by
  have start : heard .waitStart (List.replicate 16 .low) = (.character 15 0, []) := rfl
  have nine : silent .waitStart (List.replicate 16 .low ++ sampled ((List.range 8).map (dataLevel b))) = true := by
    rw [silent_append, start, silent_dataBits b le_rfl]
    rfl
  rw [beforeStop, silent_append, heard_nineBits, silent_between (by omega) (by omega)]
  exact (Bool.and_true _).trans nine

theorem heard_beforeStop (b : Byte) : (heard .waitStart (beforeStop b)).1 = .character 151 b := by
  rw [beforeStop, heard_append, heard_nineBits, heard_between (by omega)]

section
variable {L : Link} {p : LinkPort} (h : Measures p)
include h

theorem hearing_silent {vs : List Level} {x : Sampler} (quiet : silent x vs = true) {s : State}
    (at_ : s.port L = sampling p x) :
    (hearing L (vs.flatMap (held1 p)) s).port L = sampling p (heard x vs).1 := by
  induction vs generalizing x s with
  | nil => exact at_
  | cons v vs ih =>
    simp only [silent, Bool.and_eq_true, Option.isNone_iff_eq_none, Bool.not_eq_true', Bool.and_eq_false_iff,
      beq_eq_false_iff_ne] at quiet
    obtain ⟨⟨none, busy⟩, rest⟩ := quiet
    obtain ⟨t, port, sampled⟩ := hearing_sample at_ v
    have measures : Measures (t.port L) := by rw [port]; exact h
    have sampler : (t.port L).sampler = x := by rw [port]; rfl
    have first : (hearing L (held1 p v) s).port L = sampling p (sampleLine v x).1 := by
      rw [sampled, sampleReceiver_silent measures (by rwa [sampler]) (by
        rw [sampler]
        exact fun k => busy.elim (fun low => low k.1) fun confirmed => by simp [confirmed] at k),
        State.setPort_port_self, port]
      rfl
    have next : (heard x (v :: vs)).1 = (heard (sampleLine v x).1 vs).1 := by
      rw [show v :: vs = [v] ++ vs from rfl, heard_append]
      rfl
    rw [List.flatMap_cons, hearing_append, ih rest first, next]

/-! ### The idle gap -/

/-- Marks of an idle gap, up to the last one but `n`. -/
theorem hearing_idle {n : Nat} (more : 1 ≤ n) (m : Nat) {s : State}
    (at_ : s.port L = sampling { p with idleLeft := n + m } .waitStart) :
    (hearing L ((List.replicate m .high).flatMap (held1 p)) s).port L =
      sampling { p with idleLeft := n } .waitStart := by
  induction m generalizing s with
  | zero => exact at_
  | succ m ih =>
    obtain ⟨t, port, sampled⟩ := hearing_sample at_ .high
    have measures : Measures (t.port L) := by rw [port]; exact h
    have first : (hearing L (held1 p .high) s).port L = sampling { p with idleLeft := n + m } .waitStart := by
      show (hearing L (held1 { p with idleLeft := n + (m + 1) } .high) s).port L = _
      rw [sampled, sampleReceiver_idle measures (by rw [port]; rfl) (by rw [port]; show 1 < n + (m + 1); omega),
        State.setPort_port_self, port]
      rfl
    rw [List.replicate_succ, List.flatMap_cons, hearing_append]
    exact ih first

end

end Sys2Proof.Steps
end

section
/-! PROOFS. What a receiver makes of one sample, and of a character and an idle gap (R2, R7 to R9). -/

namespace Sys2Proof.Steps

open Sys2Proof.Machine Sys2Proof.Safety Sys2Proof.Statement

/-! ### A character and mark after it -/

theorem replicate_mul_eq (p : LinkPort) (v : Level) (n : Nat) :
    List.replicate (n * 2 ^ (7 - p.lineRate)) v = (List.replicate n v).flatMap (held1 p) := by
  induction n with
  | zero => simp
  | succ n ih =>
    rw [List.replicate_succ, List.flatMap_cons, ← ih, held1, List.replicate_append_replicate, Nat.succ_mul,
      Nat.add_comm]

/-- A line held for a bit time is held for sixteen samples. -/
theorem held_eq (p : LinkPort) (bits : List Level) : held p.lineRate bits = (sampled bits).flatMap (held1 p) := by
  rw [held, sampled, List.flatMap_assoc]
  exact List.flatMap_congr fun v _ => replicate_mul_eq p v 16

section
variable {L : Link} {b : Byte} {p q : LinkPort}

/-- The sample in the middle of a stop bit at mark: the character is received. -/
theorem hearing_stop (before : Measures p) (after : Measures q)
    (hears : ∀ u : State, u.port L = sampling p .waitStart → hearCharacter L b u = u.setPort L (sampling q .waitStart))
    {s : State} (at_ : s.port L = sampling p (.character 151 b)) :
    (hearing L (held1 p .high) s).port L = sampling q .waitStart := by
  obtain ⟨t, port, sampled⟩ := hearing_sample at_ .high
  have sample : sampleLine .high (t.port L).sampler = (.waitStart, some (.character b)) := by
    rw [port]
    simp [sampling, sampleCharacter.eq_def]
  let u := t.setPort L (sampledPort .high (t.port L))
  have uport : u.port L = sampling p .waitStart := by
    rw [State.setPort_port_self, sampledPort, sample, port]
    rfl
  have received : receiveCharacter L b u = u.setPort L (sampling q .waitStart) := by
    rw [receiveCharacter_of_measures (by rw [uport]; exact before), hears u uport]
  rw [sampled, sampleReceiver_other (by rw [sample]; exact fun k => nomatch k.1), sample]
  show (concludeFrame L (receiveCharacter L b u)).port L = _
  rw [received, concludeFrame_of_measures (by rw [State.setPort_port_self]; exact after), State.setPort_port_self]

/-- A character on the line, and the seven samples of its stop bit after the middle. -/
theorem hearing_tenBits (before : Measures p) (after : Measures q) (rate : q.lineRate = p.lineRate)
    (hears : ∀ u : State, u.port L = sampling p .waitStart →
      hearCharacter L b u = u.setPort L (sampling { q with idleLeft := 327 } .waitStart))
    {s : State} (at_ : s.port L = sampling p .waitStart) :
    (hearing L (held p.lineRate (tenBits b .high)) s).port L = sampling { q with idleLeft := 320 } .waitStart := by
  have samples : sampled (tenBits b .high) = beforeStop b ++ ([.high] ++ List.replicate 7 .high) := by
    rw [sampled_tenBits, beforeStop, List.append_assoc]
    rfl
  have first := hearing_silent before (silent_beforeStop b) at_
  rw [heard_beforeStop] at first
  have stop := hearing_stop before (q := { q with idleLeft := 327 }) after hears first
  have same : held1 p = held1 q := by
    funext v
    rw [held1, held1, rate]
  rw [held_eq, samples, List.flatMap_append, List.flatMap_append, hearing_append, hearing_append,
    List.flatMap_singleton]
  rw [same] at stop ⊢
  exact hearing_idle after (by omega) 7 stop

end

section
variable {L : Link} {q : LinkPort} (h : Measures q) {s : State}
  (at_ : s.port L = sampling { q with idleLeft := 320 } .waitStart)
include h at_

/-- Before twenty bit times of mark have passed, only the counts of the port have changed. -/
theorem hearing_mark {n : Nat} (short : n < 320 * 2 ^ (7 - q.lineRate)) :
    ∃ left count, (hearing L (List.replicate n .high) s).port L =
      { sampling { q with idleLeft := left } .waitStart with sampleCount := count } := by
  have positive := Nat.two_pow_pos (7 - q.lineRate)
  have samples : n / 2 ^ (7 - q.lineRate) < 320 := Nat.div_lt_of_lt_mul (Nat.mul_comm .. ▸ short)
  have rest : n % 2 ^ (7 - q.lineRate) < 2 ^ (7 - q.lineRate) := Nat.mod_lt _ positive
  have whole : List.replicate n Level.high = (List.replicate (n / 2 ^ (7 - q.lineRate)) .high).flatMap (held1 q) ++
      List.replicate (n % 2 ^ (7 - q.lineRate)) .high := by
    rw [← replicate_mul_eq, List.replicate_append_replicate, Nat.mul_comm, Nat.div_add_mod]
  have counted := hearing_idle h (n := 320 - n / 2 ^ (7 - q.lineRate)) (by omega) (n / 2 ^ (7 - q.lineRate)) (s := s)
    (by rw [at_, Nat.sub_add_cancel samples.le])
  refine ⟨320 - n / 2 ^ (7 - q.lineRate), n % 2 ^ (7 - q.lineRate), ?_⟩
  rw [whole, hearing_append]
  exact hearing_wait counted .high rest

/-- The sample that ends twenty bit times of mark. -/
theorem hearing_gap : ∃ t : State, (t.port L).sampler = .waitStart ∧ (t.port L).idleLeft ≤ 1 ∧
    (t.port L).receiver = q.receiver ∧ (t.port L).rxBuffer = q.rxBuffer ∧ (t.port L).counters = q.counters ∧
    hearing L (List.replicate (320 * 2 ^ (7 - q.lineRate)) .high) s = sampleReceiver L .high t := by
  have counted := hearing_idle h (n := 1) le_rfl 319 at_
  obtain ⟨t, port, sampled⟩ := hearing_sample counted .high
  refine ⟨t, by rw [port]; rfl, by rw [port]; exact le_rfl, by rw [port]; rfl, by rw [port]; rfl, by rw [port]; rfl, ?_⟩
  have last : List.replicate 320 Level.high = List.replicate 319 .high ++ [.high] := List.replicate_succ'
  rw [replicate_mul_eq, last, List.flatMap_append, hearing_append, List.flatMap_singleton]
  exact sampled

end

/-- A character on the line and mark after it, up to the end of the gap. -/
theorem hearing_tenBits_mark {L : Link} {b : Byte} {p q : LinkPort} (before : Measures p) (after : Measures q)
    (rate : q.lineRate = p.lineRate)
    (hears : ∀ u : State, u.port L = sampling p .waitStart →
      hearCharacter L b u = u.setPort L (sampling { q with idleLeft := 327 } .waitStart))
    {s : State} (at_ : s.port L = sampling p .waitStart) :
    let after n := hearing L (held p.lineRate (tenBits b .high) ++ List.replicate n .high) s
    (∀ n < 320 * 2 ^ (7 - p.lineRate),
      ((after n).port L).receiver = q.receiver ∧ ((after n).port L).rxBuffer = q.rxBuffer) ∧
    ∃ t : State, (t.port L).sampler = .waitStart ∧ (t.port L).idleLeft ≤ 1 ∧ (t.port L).receiver = q.receiver ∧
      (t.port L).rxBuffer = q.rxBuffer ∧ (t.port L).counters = q.counters ∧
      after (320 * 2 ^ (7 - p.lineRate)) = sampleReceiver L .high t := by
  have character := hearing_tenBits before after rate hears at_
  simp only [hearing_append, ← rate] at character ⊢
  refine ⟨fun n short => ?_, hearing_gap after character⟩
  obtain ⟨left, count, port⟩ := hearing_mark after character short
  rw [port]
  exact ⟨rfl, rfl⟩

/-! ### The obligation -/

theorem unfinished_of_append {bytes : List Byte} {b : Byte} (h : Unfinished (bytes ++ [b])) : Unfinished bytes := by
  by_cases long : 7 ≤ bytes.length
  · have same : declared (bytes ++ [b]) = declared bytes := by
      rw [declared, List.getD_append _ _ _ _ (by omega)]
    rw [Unfinished, same, List.length_append, List.length_singleton] at h
    omega
  · exact .inl (Nat.not_le.1 long)

section
variable {L : Link} {s : State}

/-- One sample: what it ends in is received, and the end of a frame that is then due is taken at once. -/
theorem receiverPeriod_cases (due : 2 ^ (7 - (s.port L).lineRate) ≤ (s.port L).sampleCount + 1) {x : Sampler}
    {e : Option LineEvent} (sample : sampleLine (s.inputs.pins.rxd.look L) (s.port L).sampler = (x, e)) :
    let t := s.setPort L { s.port L with sampleCount := 0, sampler := x }
    let idle := s.inputs.pins.rxd.look L = .high ∧ x.unconfirmed = true
    (e = none → idle → Measures (s.port L) → receiverPeriod L s = concludeFrame L (countIdle L t)) ∧
      (¬ (e = none ∧ idle ∧ Measures (s.port L)) → receiverPeriod L s = concludeFrame L (takeLineEvent L t e)) := by
  intro t idle
  have sampler : (sampleLine (s.inputs.pins.rxd.look L) (s.port L).sampler).1 = x := congrArg Prod.fst sample
  have event : (sampleLine (s.inputs.pins.rxd.look L) (s.port L).sampler).2 = e := congrArg Prod.snd sample
  have port : sampledPort (s.inputs.pins.rxd.look L) (s.port L) = { s.port L with sampleCount := 0, sampler := x } := by
    rw [sampledPort, sampler]
  rw [receiverPeriod_of_sample due]
  refine ⟨fun none mark measures => ?_, fun other => ?_⟩
  · obtain ⟨high, unconfirmed⟩ := mark
    rw [high] at sampler event port ⊢
    rw [sampleReceiver_mark measures (event.trans none) (by rwa [sampler]), port]
  · rw [sampleReceiver_other (by rw [sampler, event]; exact fun k => other ⟨k.1, ⟨k.2.1, k.2.2.1⟩, k.2.2.2⟩), port,
      event]

end

section
variable {L : Link} {s : State} {q : LinkPort}

theorem concludeFrame_countIdle_of_more (measures : Measures q) (more : 1 < q.idleLeft) :
    concludeFrame L (countIdle L (s.setPort L q)) = s.setPort L { q with idleLeft := q.idleLeft - 1 } := by
  have port : (s.setPort L q).port L = q := State.setPort_port_self ..
  rw [countIdle_of_more (by rwa [port]), State.setPort_setPort, port]
  exact concludeFrame_of_measures (by rw [State.setPort_port_self]; exact measures)

theorem concludeFrame_countIdle_of_settling (settling : q.receiver = .settling) (last : q.idleLeft ≤ 1) :
    concludeFrame L (countIdle L (s.setPort L q)) = s.setPort L { q with receiver := .hunt, idleLeft := 0 } := by
  have port : (s.setPort L q).port L = q := State.setPort_port_self ..
  rw [countIdle_of_settling (by rwa [port]) (by rwa [port]), State.setPort_setPort, port]
  exact concludeFrame_of_not_frame (by rw [State.setPort_port_self]; exact nofun)

theorem concludeFrame_countIdle_of_unfinished (frame : q.receiver = .frame) (more : Unfinished q.rxBuffer)
    (last : q.idleLeft ≤ 1) : concludeFrame L (countIdle L (s.setPort L q)) =
      s.setPort L (counted .formatErrors { q with receiver := .hunt, rxBuffer := [], idleLeft := 0 }) := by
  have port : (s.setPort L q).port L = q := State.setPort_port_self ..
  rw [countIdle_of_unfinished (by rwa [port]) (by rwa [port]) (by rwa [port]), State.setPort_setPort, port]
  exact concludeFrame_of_not_frame (by rw [State.setPort_port_self]; exact nofun)

end

theorem finished_frame {L : Link} {u v t : State} (complete : exec (.rxFrameComplete L) u = .next v)
    (oversized : exec (.oversizedPayloadLength L) v = .next t) : t = concludeFrame L u := by
  obtain rfl := Host.Outcome.next.inj complete
  exact (Host.Outcome.next.inj oversized).symm

/-- Settles O13: characters and damage by the state of the receiver, then one sample of the line, then a character and
the idle gap after it. -/
theorem receiverTakesCharactersAndDiscardsDamage : Obligations.ReceiverTakesCharactersAndDiscardsDamage := by
  intro s L b p with_ unfinished damaged
  refine ⟨fun ⟨frame, more⟩ => ?_, fun frame large => ?_, fun frame ended u v hu hv => ?_, fun disabled => ?_,
    fun settling => ?_, fun hunt other => ?_, fun hunt start => ?_, fun wait => if_pos wait,
    fun due x e sample => ?_, fun start fresh => ?_⟩
  · have measures := measures_of_unfinished frame more
    refine ⟨congrArg Host.Outcome.next ?_, congrArg Host.Outcome.next ?_, congrArg Host.Outcome.next ?_⟩
    · exact (truncateFrame_of_unfinished frame more).trans (discardToHunt_eq L s)
    · exact (receiveError_of_measures measures).trans ((hearError_frame frame).trans (discardToSettling_eq L s))
    · exact (receiveCharacter_of_measures measures b).trans (hearCharacter_frame frame b)
  · refine congrArg Host.Outcome.next ((if_pos ?_).trans (discardToSettling_eq L s))
    exact receiving_iff.2 ⟨frame, rxProgress_eq_oversized.2 large⟩
  · rw [finished_frame hu hv]
    refine ⟨congrArg Host.Outcome.next ?_, congrArg Host.Outcome.next ?_⟩
    · rw [receiveCharacter, receiveCharacter, concludeFrame_concludeFrame]
    · rw [receiveError, receiveError, concludeFrame_concludeFrame]
  · have other : (s.port L).receiver ≠ .frame := by rw [show _ = _ from disabled]; exact nofun
    exact congrArg Host.Outcome.next ((receiveCharacter_of_not_frame other b).trans (hearCharacter_disabled disabled b))
  · have measures : Measures (s.port L) := .inl settling
    refine ⟨congrArg Host.Outcome.next ?_, congrArg Host.Outcome.next ?_, congrArg Host.Outcome.next (if_pos settling)⟩
    · exact (receiveCharacter_of_measures measures b).trans (hearCharacter_settling settling b)
    · exact (receiveError_of_measures measures).trans (hearError_settling settling)
  · have frame : (s.port L).receiver ≠ .frame := by rw [show _ = _ from hunt]; exact nofun
    refine congrArg Host.Outcome.next ((receiveCharacter_of_not_frame frame b).trans ?_)
    rw [hearCharacter_hunt hunt, if_neg other]
  · have frame : (s.port L).receiver ≠ .frame := by rw [show _ = _ from hunt]; exact nofun
    refine congrArg Host.Outcome.next ((receiveCharacter_of_not_frame frame b).trans ?_)
    exact (hearCharacter_hunt hunt b).trans (if_pos start)
  · have measuring := measures_iff (p := s.port L)
    obtain ⟨marks, others⟩ := receiverPeriod_cases due sample
    refine ⟨fun c u character heard v t hv ht => ?_, fun u error heard v t hv ht => ?_, fun none other v t hv ht => ?_,
      fun none idle gap more => ?_, fun none idle settling last => ?_, fun none idle ⟨frame, more⟩ last => ?_⟩
    · subst character
      rw [finished_frame hv ht, others (fun k => nomatch k.1), ← Host.Outcome.next.inj heard]
      rfl
    · subst error
      rw [finished_frame hv ht, others (fun k => nomatch k.1), ← Host.Outcome.next.inj heard]
      rfl
    · subst none
      rw [finished_frame hv ht, others fun k => other ⟨⟨k.2.1.1, unconfirmed_iff.1 k.2.1.2⟩, measuring.1 k.2.2⟩]
      rfl
    · exact (marks none ⟨idle.1, unconfirmed_iff.2 idle.2⟩ (measuring.2 gap)).trans
        (concludeFrame_countIdle_of_more (measuring.2 gap) more)
    · exact (marks none ⟨idle.1, unconfirmed_iff.2 idle.2⟩ (.inl settling)).trans
        (concludeFrame_countIdle_of_settling settling last)
    · exact (marks none ⟨idle.1, unconfirmed_iff.2 idle.2⟩ (measures_of_unfinished frame more)).trans
        (concludeFrame_countIdle_of_unfinished frame more last)
  · have port : s.port L = sampling p .waitStart := by
      rw [sampling, ← start, ← fresh]
    have length : 20 * (16 * 2 ^ (7 - p.lineRate)) = 320 * 2 ^ (7 - p.lineRate) := (Nat.mul_assoc 20 16 _).symm
    rw [length]
    refine ⟨fun settling => ?_, fun frame more => ?_⟩
    · obtain ⟨before, t, waits, last, receiver, -, -, gap⟩ := hearing_tenBits_mark (b := b) (.inl settling)
        (.inl settling) rfl (fun u at_ => (hearCharacter_settling (by rw [at_]; exact settling) b).trans (by rw [at_]; rfl)) port
      have ended := (congrArg (State.port · L) (gap.trans (sampleReceiver_endSettling (receiver.trans settling) waits
        last))).trans (State.setPort_port_self ..)
      exact ⟨fun n short => (before n short).1.trans settling, congrArg LinkPort.receiver ended⟩
    · obtain ⟨before, t, waits, last, receiver, bytes, counters, gap⟩ := hearing_tenBits_mark (b := b)
        (q := { p with rxBuffer := p.rxBuffer ++ [b] }) (measures_of_unfinished frame (unfinished_of_append more))
        (measures_of_unfinished frame more) rfl
        (fun u at_ => (hearCharacter_frame (by rw [at_]; exact frame) b).trans (by rw [at_]; rfl)) port
      have ended := (congrArg (State.port · L) (gap.trans (sampleReceiver_truncate (receiver.trans frame)
        (by rw [bytes]; exact rxProgress_eq_unfinished.2 more) waits last))).trans (State.setPort_port_self ..)
      refine ⟨fun n short => ⟨(before n short).1.trans frame, (before n short).2⟩, congrArg LinkPort.receiver ended,
        congrArg LinkPort.rxBuffer ended, (congrArg LinkPort.counters ended).trans ?_⟩
      exact congrArg (·.bump .formatErrors) counters

end Sys2Proof.Steps
end

section
/-! PROOFS. Reference periods of the host bus, the time base and the rebuild (R23, R45, R178, R190). -/

namespace Sys2Proof.Steps

open Sys2Proof.Machine Sys2Proof.Safety Sys2Proof.Statement

/-! ### The host bus (R178) -/

theorem step_of_empty {s : State} (empty : s.pending = []) : step s = .next (clockPeriod s) := by rw [step, empty]

theorem reads_iff {p : Pins} : p.reads = true ↔ p.cs = .low ∧ p.rd = .low := by simp [Pins.reads]

theorem writes_iff {p : Pins} : p.writes = true ↔ p.cs = .low ∧ p.wr = .low := by simp [Pins.writes]

theorem ignoresAccess_iff {i : Inputs} {p : Pins} : ignoresAccess i p = true ↔
    (p.reads = true ∧ p.writes = true) ∨ (i.voided = true ∧ (p.reads = true ∨ p.writes = true)) := by
  simp [ignoresAccess]

/-- A reference period of the bus at pins that stay as they are. -/
theorem busPeriod_eq_steady {s : State} (still : s.inputs.coming = [] ∨ s.inputs.coming.head? = some s.inputs.pins) :
    busPeriod s = steady s := by
  have next : s.inputs.next = s.inputs.pins := by
    obtain none | some := still
    · rw [Inputs.next, none]; rfl
    · rw [Inputs.next, List.headD_eq_head?_getD, some]; rfl
  have ignored : ignoresAccess s.inputs s.inputs.pins = decide
      ((s.inputs.pins.cs = .low ∧ s.inputs.pins.rd = .low) ∧ (s.inputs.pins.cs = .low ∧ s.inputs.pins.wr = .low) ∨
        s.inputs.voided = true ∧ (s.inputs.pins.cs = .low ∧ s.inputs.pins.rd = .low ∨
          s.inputs.pins.cs = .low ∧ s.inputs.pins.wr = .low)) := by
    rw [Bool.eq_iff_iff, decide_eq_true_iff, ignoresAccess_iff, reads_iff, writes_iff]
  have driven : (s.inputs.pins.reads && !ignoresAccess s.inputs s.inputs.pins) = true ↔
      (s.inputs.pins.cs = .low ∧ s.inputs.pins.rd = .low) ∧ ¬ (s.inputs.pins.cs = .low ∧ s.inputs.pins.wr = .low) ∧
        s.inputs.voided = false := by
    rw [Bool.and_eq_true, Bool.not_eq_true', ← Bool.not_eq_true, ignoresAccess_iff, reads_iff, writes_iff,
      ← Bool.not_eq_true]
    tauto
  rw [busPeriod_of_next_eq next, Inputs.advance, next]
  simp only [driven]
  rw [ignored, steady]

/-- A period in which the pins change, and one in which they then stay as they are, go on alike. -/
theorem goesOn_of_busPeriod {s u : State} {p : Pins} {rest : List Pins} {voided : Bool} {bus : Option Byte}
    (empty : s.pending = []) (empty' : u.pending = [])
    (same : busPeriod s = busPeriod { u with inputs := ⟨p, p :: rest, voided⟩ })
    (data : (busPeriod s).host.dataBus = bus) :
    ∃ t, step s = .next t ∧ step { u with inputs := ⟨p, p :: rest, voided⟩ } = .next t ∧ t.host.dataBus = bus := by
  refine ⟨clockPeriod s, step_of_empty empty, ?_, (clockPeriod_dataBus s).trans data⟩
  rw [step_of_empty (by exact empty')]
  exact congrArg Host.Outcome.next (by rw [clockPeriod, clockPeriod, same])

/-- A state at pins that stay as they are. -/
theorem busPeriod_still (u : State) (p : Pins) (rest : List Pins) (voided : Bool) :
    busPeriod { u with inputs := ⟨p, p :: rest, voided⟩ } = { u with
      host := { u.host with dataBus := if p.reads && !ignoresAccess ⟨p, p :: rest, voided⟩ p then u.host.dataBus
        else none }
      inputs := ⟨p, rest, ignoresAccess ⟨p, p :: rest, voided⟩ p⟩ } :=
  busPeriod_of_next_eq rfl

/-! ### The time base and the rebuild (R23, R45, R190) -/

theorem rebuilding_iff {s : State} : s.rebuilding = true ↔ s.host.device = .initialising ∧ s.host.resetLow = false := by
  simp [State.rebuilding]

section
variable {s : State} {k : Nat} (init : s.host.device = .initialising) (high : s.host.resetLow = false)
  (placed : s.pool.freeList = (List.finRange 512).take k)
include init high placed

theorem placeBlock_of_more (more : k + 1 < 512) :
    placeBlock s = { s with pool := { s.pool with freeList := (List.finRange 512).take (k + 1) } } := by
  have length : s.pool.freeList.length = k := by
    rw [placed, List.length_take, List.length_finRange]
    omega
  rw [placeBlock, if_pos (rebuilding_iff.2 ⟨init, high⟩), length, if_pos more,
    placed_append (by rw [length, placed]), length]

theorem placeBlock_of_last (last : k + 1 = 512) :
    placeBlock s = finishRebuild s := by
  have length : s.pool.freeList.length = k := by
    rw [placed, List.length_take, List.length_finRange]
    omega
  rw [placeBlock, if_pos (rebuilding_iff.2 ⟨init, high⟩), length, if_neg (by omega)]

end

theorem placeBlock_of_not {s : State} (h : s.host.device = .ready ∨ s.host.resetLow = true) : placeBlock s = s := by
  refine if_neg fun rebuilding => ?_
  obtain ⟨init, high⟩ := rebuilding_iff.1 rebuilding
  obtain ready | low := h
  · exact nomatch init.symm.trans ready
  · exact nomatch high.symm.trans low

end Sys2Proof.Steps
end

section
/-! PROOFS. Runs of reference periods: the rebuild of the free list and the count of the time base (R23, R45). -/

namespace Sys2Proof.Steps

open Sys2Proof.Machine Sys2Proof.Safety Sys2Proof.Statement

/-! ### A quiet part leaves its pool alone -/

section
variable {s : State} (h : Quiet s)

theorem receiverOnly_pool {L : Link} {t : State} (k : ReceiverOnly L s t) : t.pool = s.pool := by
  obtain ⟨q, rfl, -⟩ := k
  rfl

include h

theorem Quiet.takeHandedFragment_eq (L : Link) : Machine.takeHandedFragment L s = s := by
  unfold Machine.takeHandedFragment
  split
  · exact if_neg (by simp [h.links L])
  · rfl

theorem Quiet.takeHandedAck_pool (L : Link) : (Machine.takeHandedAck L s).pool = s.pool := by
  unfold Machine.takeHandedAck takeAck
  split
  · simp only [(h.clearHandedOver L).matching]
    rfl
  · rfl

theorem Quiet.takeHandedRefuse_pool (L : Link) : (Machine.takeHandedRefuse L s).pool = s.pool := by
  unfold Machine.takeHandedRefuse takeRefuse
  split
  · simp only [(h.clearHandedOver L).matching]
    rfl
  · rfl

theorem Quiet.takeHandedOver_pool (L : Link) : (Machine.takeHandedOver L s).pool = s.pool := by
  rw [Machine.takeHandedOver, h.takeHandedFragment_eq, (h.takeHandedAck L).takeHandedRefuse_pool,
    h.takeHandedAck_pool]

theorem Quiet.endFrame_pool (L : Link) : (Machine.endFrame L s).pool = s.pool := by
  have gap : Quiet (enterGap L s) := h.setPort rfl
  have reported : reportFrameEnd L (enterGap L s) = clearLine L (enterGap L s) := by
    obtain e | ⟨n, d, -, sending, -⟩ := reportFrameEnd_eq L (enterGap L s)
    · exact e
    · exact absurd sending (by rw [gap.descriptors d]; exact nofun)
  have off : ((clearLine L (enterGap L s)).port L).state ≠ .stopping := by
    rw [show (clearLine L (enterGap L s)).port L = (enterGap L s).port L from rfl, gap.links L]
    exact nofun
  simp only [Machine.endFrame, reported]
  rw [if_neg off]
  rfl

theorem Quiet.transmitterPeriod_pool (L : Link) : (Machine.transmitterPeriod L s).pool = s.pool := by
  unfold Machine.transmitterPeriod
  split
  · unfold sendPeriod
    split
    · rfl
    · exact h.endFrame_pool L
  · rfl
  · rw [h.takeFrameStart L]

theorem Quiet.handOffPeriod_pool (L : Link) : (Machine.handOffPeriod L s).pool = s.pool := by
  unfold Machine.handOffPeriod
  split
  · rfl
  · split
    · rfl
    · exact h.takeHandedOver_pool L

theorem Quiet.concludeFrame_pool (L : Link) : (Machine.concludeFrame L s).pool = s.pool := by
  refine (receiverOnly_pool (discardOversized_receiverOnly L _)).trans ?_
  unfold Machine.finishFrame
  split
  · exact (receiverOnly_pool (completeFrame_receiverOnly L _)).trans (h.takeHandedOver_pool L)
  · rfl

theorem Quiet.takeLineEvent (L : Link) (e : Option LineEvent) :
    Quiet (takeLineEvent L s e) ∧ (takeLineEvent L s e).pool = s.pool := by
  unfold Machine.takeLineEvent
  split
  · exact ⟨h.receiveCharacter L _, (receiverOnly_pool (hearCharacter_receiverOnly L _ _)).trans
      (h.concludeFrame_pool L)⟩
  · exact ⟨h.receiveError L, (receiverOnly_pool (hearError_receiverOnly L _)).trans (h.concludeFrame_pool L)⟩
  · exact ⟨h, rfl⟩

theorem Quiet.receiverPeriod_pool (L : Link) : (Machine.receiverPeriod L s).pool = s.pool := by
  have sampled (x : Sampler) : Quiet (s.setPort L { s.port L with sampleCount := 0, sampler := x }) := h.setPort rfl
  unfold Machine.receiverPeriod
  split
  · rfl
  · simp only [sampleReceiver]
    split
    · have pool (t : State) (k : t.pool = s.pool) : (countIdle L t).pool = s.pool :=
        (receiverOnly_pool (countIdle_receiverOnly L t)).trans k
      exact ((quiet_of_receiverOnly (countIdle_receiverOnly L _) (sampled _)).concludeFrame_pool L).trans (pool _ rfl)
    · obtain ⟨quiet, pool⟩ := (sampled _).takeLineEvent L _
      exact (quiet.concludeFrame_pool L).trans pool

theorem Quiet.linkPeriods_pool : (Machine.linkPeriods s).pool = s.pool := by
  have quiet (L : Link) {t : State} (ht : Quiet t) : Quiet (linkPeriod L t) :=
    ((ht.transmitterPeriod L).handOffPeriod L).receiverPeriod L
  have pool (L : Link) {t : State} (ht : Quiet t) : (linkPeriod L t).pool = t.pool :=
    (((ht.transmitterPeriod L).handOffPeriod L).receiverPeriod_pool L).trans
      (((ht.transmitterPeriod L).handOffPeriod_pool L).trans (ht.transmitterPeriod_pool L))
  have first := quiet 0 h
  have second := quiet 1 first
  exact (pool 3 (quiet 2 second)).trans ((pool 2 second).trans ((pool 1 first).trans (pool 0 h)))

theorem Quiet.countPeriod_pool : (Machine.countPeriod s).pool = s.pool := by
  unfold Machine.countPeriod
  split
  · rfl
  · cases low : s.host.resetLow with
    | true => rw [takeTick_low low]
    | false => rw [takeTick_eq low, takeExpiries_of_not_due h.not_due]

end

theorem agePulsePeriod_pool (s : State) : (agePulsePeriod s).pool = s.pool := by
  unfold agePulsePeriod
  split <;> rfl

/-! ### A part that runs on its own -/

/-- No command waits, the pins stay as they are, and the RESET line is high. -/
structure Alone (s : State) : Prop where
  pending : s.pending = []
  coming : s.inputs.coming = []
  high : s.host.resetLow = false

theorem Alone.steady {s : State} (h : Alone s) : Alone (steady s) :=
  ⟨h.pending, by rw [Statement.steady, h.coming]; rfl, h.high⟩

/-- What a reference period does after the time base has counted. -/
def afterCount (s : State) : State := linkPeriods (placeBlock (agePulsePeriod s))

theorem Alone.step {s : State} (h : Alone s) :
    Machine.step s = .next (afterCount (countPeriod (Statement.steady s))) := by
  have high : ¬ (Statement.steady s).host.resetLow = true := by rw [h.steady.high]; exact nofun
  rw [step_of_empty h.pending, clockPeriod, busPeriod_eq_steady (.inl h.coming)]
  simp only [if_neg high]
  rfl

theorem placeBlock_outside (s : State) : (placeBlock s).pending = s.pending ∧ (placeBlock s).inputs = s.inputs ∧
    (placeBlock s).host.resetLow = s.host.resetLow ∧ (placeBlock s).time = s.time := by
  unfold placeBlock finishRebuild
  split
  · split <;> exact ⟨rfl, rfl, rfl, rfl⟩
  · exact ⟨rfl, rfl, rfl, rfl⟩

theorem takeTick_inputs (s : State) : (takeTick s).inputs = s.inputs := by
  cases low : s.host.resetLow with
  | true => rw [takeTick_low low]
  | false => rw [takeTick_eq low]; dsimp only; rw [(takeExpiries_linkFrame s).inputs]

theorem Alone.countPeriod {s : State} (h : Alone s) : Alone (countPeriod s) := by
  unfold Machine.countPeriod
  split
  · exact ⟨h.pending, h.coming, h.high⟩
  · exact ⟨by rw [takeTick_pending, h.pending], by rw [takeTick_inputs, h.coming], by rw [takeTick_host, h.high]⟩

theorem Alone.agePulsePeriod {s : State} (h : Alone s) : Alone (agePulsePeriod s) := by
  unfold Machine.agePulsePeriod
  split
  · exact ⟨h.pending, h.coming, h.high⟩
  · exact h

theorem Alone.placeBlock {s : State} (h : Alone s) : Alone (placeBlock s) := by
  obtain ⟨pending, inputs, reset, -⟩ := placeBlock_outside s
  exact ⟨pending.trans h.pending, by rw [inputs, h.coming], reset.trans h.high⟩

theorem Alone.linkPeriods {s : State} (h : Alone s) : Alone (linkPeriods s) := by
  have frame := linkPeriods_linkFrame s
  exact ⟨frame.pending.trans h.pending, by rw [frame.inputs, h.coming], by rw [frame.host, h.high]⟩

theorem Alone.afterCount {s : State} (h : Alone s) : Alone (afterCount s) :=
  (h.agePulsePeriod.placeBlock).linkPeriods

/-! ### The count of the time base (R23) -/

/-- The time base without its latch, its divider and its age pulses. -/
structure Counts (t : TimeBase) (prescale periodCount intervalLength : Nat) (now : Tick) : Prop where
  prescale : t.prescale = prescale
  periodCount : t.periodCount = periodCount
  intervalLength : t.intervalLength = intervalLength
  now : t.tickCounter = now

theorem Counts.self (t : TimeBase) : Counts t t.prescale t.periodCount t.intervalLength t.tickCounter :=
  ⟨rfl, rfl, rfl, rfl⟩

section
variable {s : State} {x k i : Nat} {now : Tick} (h : Alone s) (c : Counts s.time x k i now)
include c

/-- After the time base has counted, the rest of a reference period leaves the count alone. -/
theorem Counts.afterCount_time : Counts (afterCount s).time x k i now := by
  obtain ⟨-, -, -, placed⟩ := placeBlock_outside (agePulsePeriod s)
  rw [afterCount, (linkPeriods_linkFrame _).time, placed]
  unfold agePulsePeriod
  split
  · exact ⟨c.prescale, c.periodCount, c.intervalLength, c.now⟩
  · exact c

include h

/-- A reference period that does not reach the interval length. -/
theorem step_counts (less : k + 1 < i) : ∃ t, Machine.step s = .next t ∧ Alone t ∧ Counts t.time x (k + 1) i now := by
  refine ⟨_, h.step, h.steady.countPeriod.afterCount, Counts.afterCount_time ?_⟩
  have counted : Machine.countPeriod (Statement.steady s) =
      { Statement.steady s with time := { s.time with periodCount := s.time.periodCount + 1 } } :=
    if_pos (by rw [show (Statement.steady s).time = s.time from rfl, c.periodCount, c.intervalLength]; exact less)
  rw [counted]
  exact ⟨c.prescale, congrArg (· + 1) c.periodCount, c.intervalLength, c.now⟩

/-- The reference period that reaches the interval length. -/
theorem step_ticks (last : k + 1 = i) :
    ∃ t, Machine.step s = .next t ∧ Alone t ∧ Counts t.time x 0 (4096 * (x + 1)) (now + 1) := by
  refine ⟨_, h.step, h.steady.countPeriod.afterCount, Counts.afterCount_time ?_⟩
  have counted : Machine.countPeriod (Statement.steady s) = takeTick (Statement.steady s) :=
    if_neg (by rw [show (Statement.steady s).time = s.time from rfl, c.periodCount, c.intervalLength, last]
               exact Nat.lt_irrefl i)
  rw [counted, takeTick_eq h.steady.high]
  exact ⟨c.prescale, rfl, by rw [← c.prescale]; rfl, congrArg (· + 1) c.now⟩

end

/-- Reference periods before the tick. -/
theorem run_counts {n x k i : Nat} {now : Tick} {s : State} (h : Alone s) (c : Counts s.time x k i now)
    (less : k + n < i) : ∃ t : State, Host.Core.run Sys2Proof.core n s = .next t ∧ Counts t.time x (k + n) i now := by
  induction n generalizing s k with
  | zero => exact ⟨s, rfl, c⟩
  | succ n ih =>
    obtain ⟨t, stepped, alone, counts⟩ := step_counts h c (by omega)
    obtain ⟨u, ran, counts⟩ := ih alone counts (by omega)
    exact ⟨u, (core_run_succ stepped n).trans ran, by rwa [Nat.add_right_comm] at counts⟩

/-- Reference periods up to the tick. -/
theorem run_ticks_once {n x k i : Nat} {now : Tick} {s : State} (h : Alone s) (c : Counts s.time x k i now)
    (last : k + (n + 1) = i) : ∃ t : State, Host.Core.run Sys2Proof.core (n + 1) s = .next t ∧
      Counts t.time x 0 (4096 * (x + 1)) (now + 1) := by
  induction n generalizing s k with
  | zero =>
    obtain ⟨t, stepped, -, counts⟩ := step_ticks h c last
    exact ⟨t, core_run_succ stepped 0, counts⟩
  | succ n ih =>
    obtain ⟨t, stepped, alone, counts⟩ := step_counts h c (by omega)
    obtain ⟨u, ran, counts⟩ := ih alone counts (by omega)
    exact ⟨u, (core_run_succ stepped (n + 1)).trans ran, counts⟩

/-! ### The rebuild (R45, R190) -/

/-- The part initialises, and has placed the blocks below `k`. -/
structure Placed (s : State) (k : Nat) : Prop where
  init : s.host.device = .initialising
  quiet : Quiet s
  free : s.pool.freeList = (List.finRange 512).take k

theorem countPeriod_host (s : State) : (countPeriod s).host = s.host := by
  unfold countPeriod
  split
  · rfl
  · exact takeTick_host s

theorem agePulsePeriod_host (s : State) : (agePulsePeriod s).host = s.host := by
  unfold agePulsePeriod
  split <;> rfl

theorem Quiet.countPeriod {s : State} (h : Quiet s) : Quiet (countPeriod s) := by
  unfold Machine.countPeriod
  split
  · exact { h with }
  · exact h.takeTick

/-- Until the rebuild places its block, a reference period leaves the rebuild alone. -/
theorem Placed.before {s : State} {k : Nat} (p : Placed s k) : Placed (agePulsePeriod (countPeriod (steady s))) k := by
  have still : Quiet (steady s) := { p.quiet with }
  refine ⟨?_, still.countPeriod.agePulsePeriod, ?_⟩
  · rw [agePulsePeriod_host, countPeriod_host]
    exact p.init
  · rw [agePulsePeriod_pool, still.countPeriod_pool]
    exact p.free

/-- One reference period places one block, and the last one makes the part READY. -/
theorem step_places {s : State} {k : Nat} (h : Alone s) (p : Placed s k) :
    ∃ t, step s = .next t ∧ Alone t ∧ (k + 1 < 512 → Placed t (k + 1)) ∧
      (k + 1 = 512 → t.host.device = .ready ∧ t.pool.freeList = (List.finRange 512).take 512) := by
  have alone := h.steady.countPeriod
  have high := alone.agePulsePeriod.high
  refine ⟨_, h.step, alone.afterCount, fun more => ?_, fun last => ?_⟩
  all_goals
    obtain ⟨init, quiet, placed⟩ := p.before
    rw [afterCount]
  · have place := placeBlock_of_more init high placed more
    have still := (RunsQuiet.placeBlock ⟨high, fun _ => quiet⟩).quiet (by rw [place]; exact init)
    refine ⟨by rw [(linkPeriods_linkFrame _).host, place]; exact init, still.linkPeriods, ?_⟩
    rw [still.linkPeriods_pool, place]
  · have place := placeBlock_of_last init high placed last
    have still : Quiet (placeBlock (agePulsePeriod (countPeriod (steady s)))) := by
      rw [place]
      exact { quiet with }
    have all : (List.finRange 512).take 512 = List.finRange 512 := List.take_of_length_le (by rw [List.length_finRange])
    refine ⟨by rw [(linkPeriods_linkFrame _).host, place]; rfl, ?_⟩
    rw [still.linkPeriods_pool, place, finishRebuild, append_blocksToPlace placed, all]

/-- Reference periods of the rebuild. -/
theorem run_places {n k : Nat} {s : State} (h : Alone s) (p : Placed s k) (below : k < 512) (up : k + n ≤ 512) :
    ∃ t : State, Host.Core.run Sys2Proof.core n s = .next t ∧ t.pool.freeList = (List.finRange 512).take (k + n) ∧
      t.host.device = if k + n < 512 then .initialising else .ready := by
  induction n generalizing s k with
  | zero => exact ⟨s, rfl, p.free, p.init.trans (if_pos below).symm⟩
  | succ n ih =>
    obtain ⟨t, stepped, alone, more, last⟩ := step_places h p
    rw [core_run_succ stepped]
    obtain next | full := Nat.lt_or_eq_of_le (show k + 1 ≤ 512 by omega)
    · obtain ⟨u, ran, free, device⟩ := ih alone (more next) next (by omega)
      rw [Nat.add_right_comm, Nat.add_assoc] at free device
      exact ⟨u, ran, free, device⟩
    · obtain rfl : n = 0 := by omega
      obtain ⟨ready, free⟩ := last full
      exact ⟨t, rfl, by rw [free, full], ready.trans (if_neg (by omega)).symm⟩

end Sys2Proof.Steps
end

section
/-! PROOFS. Accesses at the pins of the host bus, and steps on an empty queue as reference periods (R178). -/

namespace Sys2Proof.Steps

open Sys2Proof.Machine Sys2Proof.Safety Sys2Proof.Statement

/-! ### Accesses at the pins (R178, R188) -/

/-- The period in which the pins change to `p` goes on as if the state were `u` and the pins stayed at `p`. -/
def GoesOn (s : State) (p : Pins) (rest : List Pins) (u : State) (voided : Bool) (bus : Option Byte) : Prop :=
  ∃ t, step s = .next t ∧ step { u with inputs := ⟨p, p :: rest, voided⟩ } = .next t ∧ t.host.dataBus = bus

theorem takeRead_of_readAddress {c : Instr} {a : BitVec 7} (h : readAddress c = some a) (s : State) :
    exec c s = .next (takeRead a s) := by
  cases c <;> cases h <;> rfl

/-- A read of an address that no read command names only drives its value. -/
theorem takeRead_of_no_command {a : BitVec 7} (h : ∀ c, readAddress c ≠ some a) (s : State) :
    takeRead a s = { s with host := { s.host with dataBus := some (windowRead s a) } } := by
  have named (c : Instr) (n : BitVec 7) (hc : readAddress c = some n) : a.toNat ≠ n.toNat := fun same =>
    h c (by rw [hc, BitVec.eq_of_toNat_eq same])
  have none : readEffect a = id := by
    unfold readEffect
    split
    next e => exact absurd e (named .readDataPortRead _ rfl)
    next e => exact absurd e (named .readCursorLowRead _ rfl)
    next e => exact absurd e (named .writeCountLowRead _ rfl)
    next e => exact absurd e (named .tickCounterLowRead _ rfl)
    next e => exact absurd e (named .freeCountLowRead _ rfl)
    next e => exact absurd e (named .inboundHoldLowRead _ rfl)
    next => rfl
  rw [takeRead, none, hostRead, id_eq, ite_self]
  rfl

theorem writeEnds_iff {i : Inputs} {p : Pins} : writeEnds i p = true ↔
    i.pins.writes = true ∧ p.cs = .low ∧ p.wr = .high ∧ i.voided = false := by
  simp [writeEnds, and_assoc]

theorem notLow {x y : Level} (h : x = .high ∨ y = .high) : ¬ (x = .low ∧ y = .low) := by
  rintro ⟨rfl, rfl⟩
  exact h.elim nofun nofun

/-- What is not yet void is ignored in the same way while the pins stay as they are. -/
theorem ignoresAccess_fresh {i : Inputs} {p : Pins} (fresh : i.voided = false) (rest : List Pins) :
    ignoresAccess i p = ignoresAccess ⟨p, p :: rest, false⟩ p := by
  rw [ignoresAccess, ignoresAccess, fresh]

theorem ignoresAccess_of_no_write {i : Inputs} {p : Pins} (writes : p.writes = false) (fresh : i.voided = false) :
    ignoresAccess i p = false := by
  rw [ignoresAccess, writes, fresh, Bool.and_false, Bool.false_and, Bool.or_false]

section
variable {s : State} {p : Pins} {rest : List Pins} (empty : s.pending = []) (coming : s.inputs.coming = p :: rest)
include empty coming

/-- Nothing is read: no write ends, and the part stops driving the data lines. -/
theorem goesOn_released {voided : Bool} (noWrite : writeEnds s.inputs p = false)
    (noRead : (p.reads && !ignoresAccess s.inputs p) = false)
    (ignored : ignoresAccess s.inputs p = ignoresAccess ⟨p, p :: rest, voided⟩ p) :
    GoesOn s p rest { s with host := { s.host with dataBus := none } } voided none := by
  have next : s.inputs.next = p := by rw [Inputs.next, coming]; rfl
  have begins : readBegins s.inputs p = false := by
    rw [readBegins, Bool.and_right_comm, noRead, Bool.false_and]
  have goes : readHeld s.inputs p = false := by
    rw [readHeld, Bool.and_right_comm, noRead, Bool.false_and]
  have bus : busPeriod s = { releaseBus s with inputs := s.inputs.advance } := by
    rw [busPeriod_of_none (by rwa [next]) (by rwa [next]), next, goes]
    rfl
  refine goesOn_of_busPeriod empty empty ?_ (by rw [bus]; rfl)
  rw [bus, busPeriod_still, ← ignored, noRead, Inputs.advance, next, coming]
  rfl

/-- A write ends: its effect takes place, and nothing is driven. -/
theorem goesOn_written (ends : writeEnds s.inputs p = true) (noRead : p.reads = false)
    (ignored : ignoresAccess s.inputs p = ignoresAccess ⟨p, p :: rest, false⟩ p) :
    GoesOn s p rest (takeWrite p.address p.data s) false none := by
  have next : s.inputs.next = p := by rw [Inputs.next, coming]; rfl
  have bus := busPeriod_of_write (s := s) (by rwa [next]) (by rwa [next])
  refine goesOn_of_busPeriod empty ((takeWrite_pending ..).trans empty) ?_ (by rw [bus]; rfl)
  rw [bus, busPeriod_still, ← ignored, noRead, Inputs.advance, next, coming]
  rfl

section
variable (noWrite : writeEnds s.inputs p = false) (reads : p.reads = true)
  (writes : p.writes = false) (fresh : s.inputs.voided = false)
include noWrite reads writes fresh

/-- A read begins: its effect takes place, and its value is driven. -/
theorem goesOn_read (new : s.inputs.pins.reads = false) :
    GoesOn s p rest (takeRead p.address s) false (some (windowRead s p.address)) := by
  have next : s.inputs.next = p := by rw [Inputs.next, coming]; rfl
  have taken := ignoresAccess_of_no_write (i := s.inputs) writes fresh
  have begins : readBegins s.inputs p = true := by rw [readBegins, reads, new, taken]; rfl
  have bus := busPeriod_of_read (s := s) (by rwa [next]) (by rwa [next])
  refine goesOn_of_busPeriod empty ((takeRead_pending ..).trans empty) ?_ (by rw [bus, next]; rfl)
  rw [bus, busPeriod_still, reads, ignoresAccess_of_no_write writes rfl, Inputs.advance, next, coming, taken]
  rfl

/-- A read goes on. -/
theorem goesOn_held (old : s.inputs.pins.reads = true) : GoesOn s p rest s false s.host.dataBus := by
  have next : s.inputs.next = p := by rw [Inputs.next, coming]; rfl
  have taken := ignoresAccess_of_no_write (i := s.inputs) writes fresh
  have begins : readBegins s.inputs p = false := by rw [readBegins, old]; simp
  have goes : readHeld s.inputs p = true := by rw [readHeld, reads, old, taken]; rfl
  have bus : busPeriod s = { s with inputs := s.inputs.advance } := by
    rw [busPeriod_of_none (by rwa [next]) (by rwa [next]), next, goes]
    rfl
  refine goesOn_of_busPeriod empty empty ?_ (by rw [bus])
  rw [bus, busPeriod_still, reads, ignoresAccess_of_no_write writes rfl, Inputs.advance, next, coming, taken]
  rfl

end

end

/-! ### The obligation -/

/-- Settles O3: the bus of a period at still pins, the time base and the rebuild in one period, runs of periods by
induction, and then an access by what begins and ends at the pins. -/
theorem idleStepsAreReferencePeriods : Obligations.IdleStepsAreReferencePeriods := by
  refine ⟨fun s empty still => ⟨fun low => ?_, fun high => ?_⟩, fun s => ⟨fun less => if_pos less,
    fun t reached ticked => ?_, placeBlock_of_not, fun k t init high placed => ⟨placeBlock_of_more init high placed,
      fun last rebuilt => ?_⟩⟩,
    fun s n empty high still => ⟨fun init quiet none below => ?_, fun less => ?_, fun positive last => ?_⟩,
    fun s p rest empty coming => ?_⟩
  · rw [step_of_empty empty, clockPeriod, busPeriod_eq_steady still]
    exact congrArg Host.Outcome.next (if_pos low)
  · intro link u pulse
    have goes : ¬ (steady s).host.resetLow = true := ne_true_of_eq_false high
    rw [step_of_empty empty, clockPeriod, busPeriod_eq_steady still, ← Host.Outcome.next.inj pulse]
    simp only [if_neg goes]
    rfl
  · exact (if_neg (Nat.not_lt.2 reached)).trans (Host.Outcome.next.inj ticked)
  · rw [placeBlock_of_last init high placed last, ← Host.Outcome.next.inj rebuilt]
    exact (if_pos (rebuilding_iff.2 ⟨init, high⟩)).symm
  · have placed : Placed s 0 := ⟨init, quietWhileInitialising_iff.1 quiet init, none⟩
    obtain ⟨t, ran, free, device⟩ := run_places (n := n) ⟨empty, still, high⟩ placed (by decide) (by omega)
    rw [Nat.zero_add] at free device
    exact ⟨t, ran, free, device⟩
  · obtain ⟨t, ran, counts⟩ := run_counts ⟨empty, still, high⟩ (.self s.time) less
    exact ⟨t, ran, counts.periodCount, counts.now⟩
  · obtain ⟨m, rfl⟩ := Nat.exists_eq_succ_of_ne_zero positive.ne'
    obtain ⟨t, ran, counts⟩ := run_ticks_once ⟨empty, still, high⟩ (.self s.time) last
    exact ⟨t, ran, counts.periodCount, counts.now, counts.intervalLength⟩
  · intro old goesOn quiet
    refine ⟨fun fresh => ⟨fun u cs wr cs' wr' rd' written => ?_, fun noRead noWrite cs' rd' wr' => ?_,
      fun cs rd wr cs' rd' wr' => ?_, fun released => ?_⟩, fun cs' rd' wr' => ?_, fun void => ?_⟩
    · obtain rfl := Host.Outcome.next.inj written
      exact goesOn_written empty coming (writeEnds_iff.2 ⟨writes_iff.2 ⟨cs, wr⟩, cs', wr', fresh⟩)
        (by simp [Pins.reads, rd']) (ignoresAccess_fresh fresh rest)
    · have reads : p.reads = true := reads_iff.2 ⟨cs', rd'⟩
      have writes : p.writes = false := by simp [Pins.writes, wr']
      have new : s.inputs.pins.reads = false :=
        Bool.eq_false_iff.2 fun held => notLow noRead (reads_iff.1 held)
      have noEnd : writeEnds s.inputs p = false :=
        Bool.eq_false_iff.2 fun ends => notLow noWrite (writes_iff.1 (writeEnds_iff.1 ends).1)
      have read := goesOn_read empty coming noEnd reads writes fresh new
      refine ⟨fun c u named taken => ?_, fun unnamed => ?_⟩
      · obtain rfl := Host.Outcome.next.inj ((takeRead_of_readAddress named s).symm.trans taken)
        exact read
      · rwa [takeRead_of_no_command unnamed] at read
    · have noEnd : writeEnds s.inputs p = false :=
        Bool.eq_false_iff.2 fun ends => nomatch wr.symm.trans (writes_iff.1 (writeEnds_iff.1 ends).1).2
      exact goesOn_held empty coming noEnd (reads_iff.2 ⟨cs', rd'⟩) (by simp [Pins.writes, wr']) fresh
        (reads_iff.2 ⟨cs, rd⟩)
    · have noRead : p.reads = false :=
        Bool.eq_false_iff.2 fun reads => notLow (released.imp_right And.left) (reads_iff.1 reads)
      refine goesOn_released empty coming (Bool.eq_false_iff.2 fun ends => ?_) (by rw [noRead]; rfl)
        (ignoresAccess_fresh fresh rest)
      obtain ⟨writes, cs', wr', -⟩ := writeEnds_iff.1 ends
      obtain high | ⟨-, low | noWrite⟩ := released
      · exact nomatch cs'.symm.trans high
      · exact nomatch wr'.symm.trans low
      · exact notLow noWrite (writes_iff.1 writes)
    · have reads : p.reads = true := reads_iff.2 ⟨cs', rd'⟩
      have writes : p.writes = true := writes_iff.2 ⟨cs', wr'⟩
      have ignored (i : Inputs) : ignoresAccess i p = true := ignoresAccess_iff.2 (.inl ⟨reads, writes⟩)
      refine goesOn_released empty coming (Bool.eq_false_iff.2 fun ends => ?_) (by rw [ignored]; simp)
        ((ignored _).trans (ignored _).symm)
      exact nomatch wr'.symm.trans (writeEnds_iff.1 ends).2.2.1
    · have goes : decide (p.cs = .low ∧ (p.rd = .low ∨ p.wr = .low)) = (p.reads || p.writes) := by
        rw [Bool.eq_iff_iff, decide_eq_true_iff, Bool.or_eq_true, reads_iff, writes_iff, and_or_left]
      have ignored (i : Inputs) (h : i.voided = true ∨ i.voided = (p.reads || p.writes)) :
          ignoresAccess i p = (p.reads || p.writes) := by
        rw [ignoresAccess]
        obtain h | h := h <;> rw [h] <;> cases p.reads <;> cases p.writes <;> rfl
      refine goesOn_released empty coming (Bool.eq_false_iff.2 fun ends => ?_)
        (by rw [ignored _ (.inl void)]; cases p.reads <;> rfl)
        ((ignored _ (.inl void)).trans (ignored _ (.inr goes)).symm)
      exact nomatch void.symm.trans (writeEnds_iff.1 ends).2.2.2

end Sys2Proof.Steps
end
